-- ==== Sys2Proof/Word.lean ====
section
/-! DEFINITION. The widths of the block's words (rules R6, R7, R91). Everything is unsigned. -/

namespace Sys2Proof

/-- A command word or a read word: 32 bits (R6, R61, R80). -/
abbrev Word := BitVec 32

/-- A pushed element, an offset, a terminator unit or an output-buffer entry: 16 bits (R6, R43, R84). -/
abbrev Elem := BitVec 16

/-- A capacity, a length or an index of the output buffer: 28 bits (R34, R35, R40, R85). -/
abbrev Count := BitVec 28

/-- A width field of CFG or CFGW, encodable 0..31 (R31, R83). -/
abbrev Width := BitVec 5

end Sys2Proof
end

