-- ==== Sys2Proof/Syntax.lean ====
section
/-! DEFINITION. The commands of the block (30_encoding.md R86) and the assembler's source lines (R92, R93). -/

namespace Sys2Proof

/-- A command, one constructor for each row of spec/opcode_table.json. Every field has the width of its field in the command
word, so every term is encodable; an operand value that encodes but is illegal is refused when the command runs (R89). -/
inductive Instr where
  | nop                                         -- R160
  | cfgw (sw tw : Width) (oewsel : BitVec 1)    -- R107
  | cfgso (imm : Elem)                          -- R108
  | cfgto (imm : Elem)                          -- R109
  | gstart (cap : Count)                        -- R110
  | estart (n : Count)                          -- R140
  | dterm (t : Elem)                            -- R150
  | dstart (l : Count)                          -- R151
  | push (x : Elem)                             -- R111
  | flush                                       -- R112
  | eterm                                       -- R141
  | abort                                       -- R161
  | clrerr                                      -- R162
  deriving DecidableEq, Repr

/-- Why a command word is illegal. Performing either is `raise E_ILLEGAL` (R90). -/
inductive IllegalWord where
  /-- OP is 0xD, 0xE or 0xF (R87). -/
  | reservedOpcode
  /-- OP names a command and a reserved bit of its format is set (R88). -/
  | reservedBits
  deriving DecidableEq, Repr

/-- What decoding a word gives: `Decode(w) -> Command | Illegal` (R90). -/
inductive Decoded where
  | command (i : Instr)
  | illegal (why : IllegalWord)
  deriving DecidableEq, Repr

/-- A command as an assembler line writes it, its operands still plain numbers (R92). CFGW takes the output element width
itself, 8 or 16, not its select bit. -/
inductive AsmCommand where
  | nop
  | cfgw (sw tw oew : Nat)
  | cfgso (imm : Nat)
  | cfgto (imm : Nat)
  | gstart (cap : Nat)
  | estart (n : Nat)
  | dterm (t : Nat)
  | dstart (l : Nat)
  | push (x : Nat)
  | flush
  | eterm
  | abort
  | clrerr
  deriving DecidableEq, Repr

/-- One assembler line: a command (R92), a pseudo-instruction (R93), or nothing but a comment. -/
inductive SourceLine where
  | blank
  | command (c : AsmCommand)
  | config (sw tw oew soff toff : Nat)
  | realign (cap : Nat) (xs : List Nat)
  | encode (bytes : List Nat)
  | decode (units : List Nat) (t : Nat)
  | recover
  deriving DecidableEq, Repr

end Sys2Proof
end

