-- ==== Sys2Proof/WellFormed.lean ====
section
/-! DEFINITION. Which command words are legal, by the opcode map's match and mask (R86 to R88), and which assembler lines are,
by the ranges of R92 and R93. A term of `Instr` needs no check: its fields have the widths of the encoding. -/

namespace Sys2Proof

/-- A row of the opcode map: `w` encodes the row's command when `w &&& mask = bits` (R86). -/
structure OpcodeRow where
  bits : Word
  mask : Word
  deriving DecidableEq, Repr

/-- The word belongs to the row (R86). -/
def OpcodeRow.matches (r : OpcodeRow) (w : Word) : Bool := w &&& r.mask == r.bits

/-- The row of a command in the opcode map (R86). -/
def Instr.row : Instr → OpcodeRow
  | .nop        => ⟨0x00000000, 0xFFFFFFFF⟩
  | .cfgw _ _ _ => ⟨0x10000000, 0xFFFEE0E0⟩
  | .cfgso _    => ⟨0x20000000, 0xFFFF0000⟩
  | .cfgto _    => ⟨0x30000000, 0xFFFF0000⟩
  | .gstart _   => ⟨0x40000000, 0xF0000000⟩
  | .estart _   => ⟨0x50000000, 0xF0000000⟩
  | .dterm _    => ⟨0x60000000, 0xFFFF0000⟩
  | .dstart _   => ⟨0x70000000, 0xF0000000⟩
  | .push _     => ⟨0x80000000, 0xFFFF0000⟩
  | .flush      => ⟨0x90000000, 0xFFFFFFFF⟩
  | .eterm      => ⟨0xA0000000, 0xFFFFFFFF⟩
  | .abort      => ⟨0xB0000000, 0xFFFFFFFF⟩
  | .clrerr     => ⟨0xC0000000, 0xFFFFFFFF⟩

/-- The thirteen command rows of the opcode map, in its order (R86). -/
def opcodeMap : List OpcodeRow :=
  [Instr.nop, .cfgw 0 0 0, .cfgso 0, .cfgto 0, .gstart 0, .estart 0, .dterm 0, .dstart 0, .push 0,
    .flush, .eterm, .abort, .clrerr].map Instr.row

/-- The word is the encoding of some command: it matches a row of the opcode map (R86). Every other word is illegal
(R87, R88). -/
def Word.legal (w : Word) : Bool := opcodeMap.any fun r => r.matches w

/-- Every operand is in the range the assembler checks (R92). -/
def AsmCommand.inRange : AsmCommand → Bool
  | .cfgw sw tw oew => decide (sw ≤ 31) && decide (tw ≤ 31) && (oew == 8 || oew == 16)
  | .cfgso imm => decide (imm ≤ 0xFFFF)
  | .cfgto imm => decide (imm ≤ 0xFFFF)
  | .gstart cap => decide (cap ≤ 0x0FFFFFFF)
  | .estart n => decide (n ≤ 0x0FFFFFFF)
  | .dterm t => decide (t ≤ 0xFFFF)
  | .dstart l => decide (l ≤ 0x0FFFFFFF)
  | .push x => decide (x ≤ 0xFFFF)
  | .nop | .flush | .eterm | .abort | .clrerr => true

/-- The commands a source line stands for: a command is itself, a pseudo-instruction its expansion (R93). REALIGN with no
element, which R93 does not name, is GSTART and FLUSH (DESIGN CHOICE, log 19). -/
def SourceLine.expand : SourceLine → List AsmCommand
  | .blank => []
  | .command c => [c]
  | .config sw tw oew soff toff => [.cfgw sw tw oew, .cfgso soff, .cfgto toff]
  | .realign cap xs => .gstart cap :: (xs.map .push ++ [.flush])
  | .encode bytes => .estart bytes.length :: (bytes.map .push ++ [.flush, .eterm])
  | .decode units t => .dterm t :: .dstart units.length :: (units.map .push ++ [.flush])
  | .recover => [.abort, .clrerr]

/-- The list operands of ENCODE are bytes (R93); those of DECODE and REALIGN are checked as PUSH operands. -/
def SourceLine.listInRange : SourceLine → Bool
  | .encode bytes => bytes.all fun b => decide (b ≤ 0xFF)
  | .blank | .command _ | .config _ _ _ _ _ | .realign _ _ | .decode _ _ | .recover => true

/-- The line assembles: every command of its expansion is in range, and so is its list (R92, R93). -/
def SourceLine.wellFormed (l : SourceLine) : Bool :=
  l.listInRange && l.expand.all AsmCommand.inRange

end Sys2Proof
end

