-- ==== Sys2Proof/Decode.lean ====
section
/-! DEFINITION. The decoder (R90), total on every 32-bit word, then the encoder (R82 to R86) and the assembler's step from
plain numbers to commands (R92). -/

namespace Sys2Proof

/-- `w[lo + len - 1 : lo]`, the field of `len` bits from bit `lo` (R7). -/
abbrev Word.field (w : Word) (lo len : Nat) : BitVec len := w.extractLsb' lo len

/-- Formats N, H and W: the command if the format's reserved bits are zero, else an illegal word (R88). -/
def decodeWhen (reservedZero : Bool) (i : Instr) : Decoded :=
  if reservedZero then .command i else .illegal .reservedBits

/-- Format N: bits 27:0 are reserved (R82). -/
def decodeN (w : Word) (i : Instr) : Decoded := decodeWhen (w.field 0 28 == 0) i

/-- Format W: bits 27:17, 15:13 and 7:5 are reserved (R83). -/
def decodeW (w : Word) : Decoded :=
  decodeWhen (w.field 17 11 == 0 && w.field 13 3 == 0 && w.field 5 3 == 0)
    (.cfgw (w.field 0 5) (w.field 8 5) (w.field 16 1))

/-- Format H: bits 27:16 are reserved, bits 15:0 the immediate (R84). -/
def decodeH (w : Word) (i : Elem → Instr) : Decoded := decodeWhen (w.field 16 12 == 0) (i (w.field 0 16))

/-- Format L: bits 27:0 are the immediate, no bit is reserved (R85). -/
def decodeL (w : Word) (i : Count → Instr) : Decoded := .command (i (w.field 0 28))

/-- `Decode(w)` of R90: OP = w[31:28] selects the command (R81). -/
def decode (w : Word) : Decoded :=
  match (w.field 28 4).toNat with
  | 0x0 => decodeN w .nop
  | 0x1 => decodeW w
  | 0x2 => decodeH w .cfgso
  | 0x3 => decodeH w .cfgto
  | 0x4 => decodeL w .gstart
  | 0x5 => decodeL w .estart
  | 0x6 => decodeH w .dterm
  | 0x7 => decodeL w .dstart
  | 0x8 => decodeH w .push
  | 0x9 => decodeN w .flush
  | 0xA => decodeN w .eterm
  | 0xB => decodeN w .abort
  | 0xC => decodeN w .clrerr
  | _ => .illegal .reservedOpcode

/-- The command of a decoded word, if it is one. -/
def Decoded.instr? : Decoded → Option Instr
  | .command i => some i
  | .illegal _ => none

/-- The word of a table row: its bits numbered as the opcode table numbers them, every bit from `nbits` up being 0. A command
is one 32-bit word, delivered whole (R80), so no byte order enters (R65). -/
def tableWord (nbits w : Nat) : Word := BitVec.ofNat 32 (w % 2 ^ nbits)

/-- The instruction the decoder reads from a row of the opcode table. -/
def decodeTableWord (nbits w : Nat) : Option Instr := (decode (tableWord nbits w)).instr?

/-- Format N (R82). -/
def encodeN (op : BitVec 4) : Word := op ++ (0 : BitVec 28)

/-- Format W (R83). -/
def encodeW (sw tw : Width) (oewsel : BitVec 1) : Word :=
  (0x1 : BitVec 4) ++ (0 : BitVec 11) ++ oewsel ++ (0 : BitVec 3) ++ tw ++ (0 : BitVec 3) ++ sw

/-- Format H (R84). -/
def encodeH (op : BitVec 4) (imm : Elem) : Word := op ++ (0 : BitVec 12) ++ imm

/-- Format L (R85). -/
def encodeL (op : BitVec 4) (imm : Count) : Word := op ++ imm

/-- The word of a command (R86, R92). -/
def encode : Instr → Word
  | .nop => encodeN 0x0
  | .cfgw sw tw oewsel => encodeW sw tw oewsel
  | .cfgso imm => encodeH 0x2 imm
  | .cfgto imm => encodeH 0x3 imm
  | .gstart cap => encodeL 0x4 cap
  | .estart n => encodeL 0x5 n
  | .dterm t => encodeH 0x6 t
  | .dstart l => encodeL 0x7 l
  | .push x => encodeH 0x8 x
  | .flush => encodeN 0x9
  | .eterm => encodeN 0xA
  | .abort => encodeN 0xB
  | .clrerr => encodeN 0xC

/-- The command of an assembler command whose operands are in range (R92): OEWSEL is set when the output element width
is 16. -/
def AsmCommand.toInstr : AsmCommand → Instr
  | .nop => .nop
  | .cfgw sw tw oew => .cfgw (BitVec.ofNat 5 sw) (BitVec.ofNat 5 tw) (if oew = 16 then 1 else 0)
  | .cfgso imm => .cfgso (BitVec.ofNat 16 imm)
  | .cfgto imm => .cfgto (BitVec.ofNat 16 imm)
  | .gstart cap => .gstart (BitVec.ofNat 28 cap)
  | .estart n => .estart (BitVec.ofNat 28 n)
  | .dterm t => .dterm (BitVec.ofNat 16 t)
  | .dstart l => .dstart (BitVec.ofNat 28 l)
  | .push x => .push (BitVec.ofNat 16 x)
  | .flush => .flush
  | .eterm => .eterm
  | .abort => .abort
  | .clrerr => .clrerr

/-- The commands of a source line, or none where an operand is outside its range: an assembly error (R92, R93). -/
def assembleLine (l : SourceLine) : Option (List Instr) :=
  if l.wellFormed then some (l.expand.map AsmCommand.toInstr) else none

end Sys2Proof
end

