-- ==== Sys2Proof/Config.lean ====
section
/-! DEFINITION. What the spec leaves open: the buffer depth (R6, U9) and the values a model treats as any value
(93_implementation_defined.md U1, U4, U5, U6, U7). None has a body, so no proof can lean on one. -/

namespace Sys2Proof

/-- One less than the implementation's OBUF_DEPTH. The type holds exactly the numbers that R6 allows, 1 to 2^28 - 1,
less one (log 1). -/
opaque Config.obufDepthPred : Fin 268435455

/-- The parameter OBUF_DEPTH of R6, open between 1 and 2^28 - 1 (log 1). -/
def Config.obufDepth : Count := BitVec.ofNat 28 (Config.obufDepthPred.val + 1)

/-- The n-th output that the spec leaves at any value: one to which an out-of-range element contributes (R103, U4) or one
of a decode session outside the encoder image (R156, U1). A free value, with no law, so all 16 bits are open (log 7). -/
opaque Config.anyOutput : Nat → Elem

/-- What the host reads, under draw number d, from entry i of the output buffer when the current session has not written
that entry: stale content or reset content (R74, R230, U5, U6, U7). A free value for each draw and entry (log 3, 4). -/
opaque Config.staleEntry : Nat → Nat → Elem

end Sys2Proof
end

