-- ==== Sys2Proof/Machine/State.lean ====
section
/-! DEFINITION. The state of the block (10_state.md), its error causes (60_exceptions.md R202), the host's events
(70_reset_and_hazards.md R239) and the state after reset (R230). -/

namespace Sys2Proof.Machine

/-- The MODE field of STATUS: which start command opened the current or last session (R23, R28). -/
inductive Mode where
  | none | gen | enc | dec
  deriving DecidableEq, Repr

/-- The causes a refused command records (R202). -/
inductive Cause where
  | illegal | busy | notActive | cfg | cap | seq
  deriving DecidableEq, Repr

/-- What the host can do to the block, one event at a time (R5, R239). -/
inductive HostEvent where
  /-- A command word on the command port. -/
  | command (w : Word)
  /-- A read of an address on the read port. -/
  | read (addr : Word)
  /-- Reset, which the host applies between two commands (R231). -/
  | reset
  deriving DecidableEq, Repr

/-- OBUF, the block's only memory: the entries whose content is known, as pairs of index and 16-bit value, indices strictly
rising. An entry that is not listed has no known content (R43, R230; log 2). -/
abbrev Memory := List (Nat × Elem)

/-- OBUF's one canonical form: indices strictly rising, so that no entry is listed twice. An unlisted entry reads as no
value, which no listed entry equals (log 2). -/
abbrev Memory.wf (m : Memory) : Prop := m.Pairwise fun a b => a.1 < b.1

/-- No fault exists: no command and no host event stops the block (R200, R201, R204, R115). The type has no constructor, so
the kernel itself knows that a step never faults. -/
inductive Fault where
  deriving DecidableEq, Repr

/-- Why a step has no meaning. -/
inductive Refusal where
  /-- Raised only by an arm of `exec` whose instruction has no meaning yet; no arm uses it now. Safe: the model stops where
  the hardware goes on. A command that the block itself refuses is no refusal in this sense: it is a next state (R201). -/
  | notModelled (mnemonic : String)
  deriving DecidableEq, Repr

/-- The state of the block. Each field down to `obuf` is a register or field of 10_state.md; the rest are the model's own. -/
structure State where
  /-- STATUS.ACTIVE: a session is open (R24). -/
  active : Bool
  /-- STATUS.DONE: FLUSH ended the last session (R25). -/
  done : Bool
  /-- STATUS.ERR: a command has been refused since ERR was last cleared (R27). -/
  err : Bool
  /-- STATUS.ECODE: the cause of the first refusal (R27, R202). -/
  ecode : BitVec 4
  /-- STATUS.MODE (R28). -/
  mode : Mode
  /-- STATUS.RVALID: RESID holds a residue that no DSTART has consumed (R29). -/
  rvalid : Bool
  /-- CFG.SW, the source width (R31). -/
  sw : Width
  /-- CFG.TW, the target width (R31). -/
  tw : Width
  /-- CFG.OEWSEL, the output element width select (R31). -/
  oewsel : BitVec 1
  /-- SOFF, the input offset (R32). -/
  soff : Elem
  /-- TOFF, the output offset (R33). -/
  toff : Elem
  /-- CAP, the session's output capacity (R34). -/
  cap : Count
  /-- NLEN, the session's declared input length (R35). -/
  nlen : Count
  /-- RESID, the residue of the last DTERM (R36). -/
  resid : Elem
  /-- ACC_REST, the bits of the group not yet complete, left-aligned in TW bits (R37). -/
  accRest : Elem
  /-- ACC_OFF, the number of valid bits in the accumulator (R38). -/
  accOff : BitVec 5
  /-- OIDX, the index of the next entry the session writes (R40). -/
  oidx : Count
  /-- ICNT, the number of PUSH commands of the session, modulo 2^32 (R41). -/
  icnt : BitVec 32
  /-- DEPTH, the constant OBUF_DEPTH (R42). -/
  depth : Count
  /-- OBUF (R43). -/
  obuf : Memory
  /-- The model's own: a bit now pending in ACC_REST came from an out-of-range element, so the group it goes into is any
  value (R103, U4; log 5). -/
  accAny : Bool
  /-- The model's own: the decode session lies outside the encoder image, so its outputs are any value (R156, U1; log 6). -/
  outAny : Bool
  /-- The model's own: ETERM has been performed since the last start command (R74, R242). -/
  termWritten : Bool
  /-- The model's own: the number of the next free output value (`Config.anyOutput`). -/
  draws : Nat
  /-- The model's own: the number of the current draw of stale entries (`Config.staleEntry`). -/
  staleDraw : Nat
  /-- The model's own: the host's events that the block has not taken yet, first to arrive first (R60, R239; log 8). -/
  port : List HostEvent
  /-- The model's own: the word the last host read gave back (R239; log 9). -/
  reply : Option Word
  deriving DecidableEq, Repr

/-- The state after reset of a block with OBUF_DEPTH = `depth` (R230). The fields below `obuf` are the model's own, and
their values here are a DESIGN CHOICE (log 14). -/
def State.resetAt (depth : Count) : State where
  active := false
  done := false
  err := false
  ecode := 0
  mode := .none
  rvalid := false
  sw := 0
  tw := 0
  oewsel := 0
  soff := 0
  toff := 0
  cap := 0
  nlen := 0
  resid := 0
  accRest := 0
  accOff := 0
  oidx := 0
  icnt := 0
  depth := depth
  obuf := []
  accAny := false
  outAny := false
  termWritten := false
  draws := 0
  staleDraw := 0
  port := []
  reply := none

/-- The block right after reset, with whatever depth the implementation has (R230, R6). -/
def State.reset : State := State.resetAt Config.obufDepth

end Sys2Proof.Machine
end

