-- ==== Sys2Proof/Machine/Flags.lean ====
section
/-! DEFINITION. STATUS and CFG as the words the host reads (10_state.md R23, R31), and the codes of their fields. -/

namespace Sys2Proof.Machine

/-- The code of MODE in STATUS[9:8] (R23). -/
def Mode.code : Mode → BitVec 2
  | .none => 0
  | .gen => 1
  | .enc => 2
  | .dec => 3

/-- The cause code that ECODE records (R202). -/
def Cause.code : Cause → BitVec 4
  | .illegal => 1
  | .busy => 2
  | .notActive => 3
  | .cfg => 4
  | .cap => 5
  | .seq => 6

/-- STATUS.FULL, derived and not stored: `OIDX == CAP` (R26). -/
def State.full (s : State) : Bool := s.oidx == s.cap

/-- STATUS as the host reads it; bits 31:11 are reserved and read 0 (R23, R30). -/
def State.statusWord (s : State) : Word :=
  (0 : BitVec 21) ++ BitVec.ofBool s.rvalid ++ s.mode.code ++ s.ecode ++ BitVec.ofBool s.err ++
    BitVec.ofBool s.full ++ BitVec.ofBool s.done ++ BitVec.ofBool s.active

/-- CFG as the host reads it: SW in bits 4:0, TW in 12:8, OEWSEL in 16, all other bits 0 (R31). -/
def State.cfgWord (s : State) : Word :=
  (0 : BitVec 15) ++ s.oewsel ++ (0 : BitVec 3) ++ s.tw ++ (0 : BitVec 3) ++ s.sw

end Sys2Proof.Machine
end

