-- ==== Sys2Proof/Machine/Operands.lean ====
section
/-! DEFINITION. What the commands compute from their operands and the configuration: legal widths (R101), the input
offset-apply unit (R103), the output offset-apply unit (R104), the fold (R105), the capacity formulas (R140, R151) and the
tests that say which results the spec leaves at any value (R103, R152). Arithmetic is over the integers and every reduction is
written (R8). Every immediate is unsigned and zero-extended (R91): `toNat`. -/

namespace Sys2Proof.Machine

/-- `ceil(a / b)` for a positive b (R8). -/
def ceilDiv (a b : Nat) : Nat := (a + b - 1) / b

/-- OEW, the output element width in bits that OEWSEL selects (R31). -/
def oewOf (oewsel : BitVec 1) : Nat := if oewsel = 0 then 8 else 16

/-- `CfgLegal(sw, tw, oewsel)` (R101). -/
def cfgLegal (sw tw : Width) (oewsel : BitVec 1) : Bool :=
  decide (1 ≤ sw.toNat ∧ sw.toNat ≤ 16 ∧ 1 ≤ tw.toNat ∧ tw.toNat ≤ oewOf oewsel)

/-- `InputValue(x) = (x - SOFF) mod 2^SW`, the remainder non-negative (R103, R8). -/
def inputValue (sw : Width) (soff x : Elem) : Nat :=
  (((x.toNat : Int) - (soff.toNat : Int)) % ((2 ^ sw.toNat : Nat) : Int)).toNat

/-- The element is in range: `SOFF <= x < SOFF + 2^SW` over the integers (R103). -/
def elemInRange (sw : Width) (soff x : Elem) : Bool :=
  decide (soff.toNat ≤ x.toNat ∧ x.toNat < soff.toNat + 2 ^ sw.toNat)

/-- `(g + TOFF) mod 2^OEW`, zero-extended to an entry: the output offset-apply unit and narrowing (R104). -/
def outputValue (toff : Elem) (oewsel : BitVec 1) (g : Nat) : Elem :=
  BitVec.ofNat 16 ((g + toff.toNat) % 2 ^ oewOf oewsel)

/-- The group that PUSH emits once `off` bits of the element remain: `(rest + (value >> off)) mod 2^TW` (R111, C2). -/
def groupValue (tw rest value off : Nat) : Nat := (rest + value / 2 ^ off) % 2 ^ tw

/-- The fold: the low `off` bits of the value, placed at the top of the TW-bit group below the bits of `rest` (R105). -/
def foldRest (tw rest value off : Nat) : Nat := rest + (value * 2 ^ (tw - off)) % 2 ^ tw

/-- The encoder's capacity `ceil(4 * n / 7) + 1` (R140). -/
def encodeCapacity (n : Nat) : Nat := ceilDiv (4 * n) 7 + 1

/-- TERM_BASE (R6, R44). -/
def termBase : Nat := 0x3D00

/-- DATA_BASE (R6, R44). -/
def dataBase : Elem := 0x4E00

/-- The terminator unit of n bytes, `(n mod 7) + 0x3D00` (R141). -/
def terminatorUnit (n : Nat) : Elem := BitVec.ofNat 16 (n % 7 + termBase)

/-- `(t - 0x3D00) mod 2^16` (R150). -/
def residueOf (t : Elem) : Elem := t - BitVec.ofNat 16 termBase

/-- The effective residue: a stored residue of 0 counts as 7 (R151). -/
def effectiveResidue (resid : Elem) : Nat := if resid = 0 then 7 else resid.toNat

/-- DSTART's byte count `N = floor((l - 1) / 4) * 7 + r`, over the integers. The floor is the mathematical one, which integer
division by the positive 4 is in Lean (R151, R8, C3). -/
def decodeCount (resid : Elem) (l : Nat) : Int := ((l : Int) - 1) / 4 * 7 + (effectiveResidue resid : Int)

/-- The conditions of the encoder image that DSTART's operands decide: the terminator lies in 0x3D00..0x3D06, and the count N
fits the number of units (R152, conditions 1 and 2). -/
def headerInImage (resid : Elem) (n l : Nat) : Bool := decide (resid.toNat ≤ 6) && ceilDiv (4 * n) 7 == l

/-- The number of pad bits at the low end of the last of l units that carry n bytes, `14L - 8N` (R152, condition 4). -/
def padBits (n l : Nat) : Nat := 14 * l - 8 * n

end Sys2Proof.Machine
end

