-- ==== Sys2Proof/Machine/Ops.lean ====
section
/-! DEFINITION. The operations the commands share: OBUF (R43, R63), the refusal of a command and the return from it (R201,
R205), opening a session (R102), emitting a group (R104), the element step (R105, R106, R111), and what the host does: offer a
command, read (R61), reset (R231). -/

namespace Sys2Proof.Machine

open Host (Outcome)

/-! ## OBUF -/

/-- The known content of entry i, or none: the entry then holds content that no command has written since reset (R43). -/
def Memory.read : Memory → Nat → Option Elem
  | [], _ => none
  | (j, v) :: m, i => if i = j then some v else Memory.read m i

/-- `OBufWrite(i, v)` on the entries, keeping them in order (R63). -/
def Memory.write : Memory → Nat → Elem → Memory
  | [], i, v => [(i, v)]
  | (j, u) :: m, i, v =>
    if i < j then (i, v) :: (j, u) :: m
    else if i = j then (i, v) :: m
    else (j, u) :: Memory.write m i v

/-- Every known entry below n takes a free value of its own, entry i the draw k + i (R156, U1). -/
def Memory.redraw (k n : Nat) (m : Memory) : Memory :=
  m.map fun e => if e.1 < n then (e.1, Config.anyOutput (k + e.1)) else e

/-- `OBufWrite(i, v)` (R63). -/
def State.obufWrite (i : Nat) (v : Elem) (s : State) : State := { s with obuf := s.obuf.write i v }

/-! ## The refusal of a command, and the return from it -/

/-- `raise c`: the error record takes the cause if it is empty, and nothing else changes (R201). -/
def State.raise (c : Cause) (s : State) : State :=
  { s with err := true, ecode := if s.err then s.ecode else c.code }

/-- The return from an error: the record is cleared, and there is nothing else to restore (R162, R205). -/
def State.clearError (s : State) : State := { s with err := false, ecode := 0 }

/-- The first cause, in the order of the checks, whose condition holds (R203). -/
def firstCause : List (Bool × Cause) → Option Cause
  | [] => none
  | (true, c) :: _ => some c
  | (false, _) :: rest => firstCause rest

/-- A command: its checks are made in order before any write; the first that applies refuses it (R201, R203), else it has its
effect. Either way the command completes (R200). -/
def perform (checks : List (Bool × Cause)) (effect : State → State) (s : State) :
    Outcome State Fault Refusal :=
  .next (match firstCause checks with
    | some c => s.raise c
    | none => effect s)

/-- Performing an illegal word is `raise E_ILLEGAL` (R90). -/
def performIllegal (s : State) : Outcome State Fault Refusal := .next (s.raise .illegal)

/-! ## Configuration and sessions -/

/-- Writes the widths of CFG (R31). -/
def State.setWidths (sw tw : Width) (oewsel : BitVec 1) (s : State) : State :=
  { s with sw := sw, tw := tw, oewsel := oewsel }

/-- Loads a preset: the widths and both offsets (R44). -/
def State.loadPreset (sw tw : Width) (oewsel : BitVec 1) (soff toff : Elem) (s : State) : State :=
  { s with sw := sw, tw := tw, oewsel := oewsel, soff := soff, toff := toff }

/-- `SessionInit(mode, cap, nlen)`, which leaves OBUF, ERR, ECODE and RVALID alone (R102). The model's own fields start afresh:
no bit is pending, the outputs are determined, no terminator is written, and stale entries are drawn anew (R74). -/
def State.sessionInit (mode : Mode) (cap nlen : Count) (s : State) : State :=
  { s with
    cap := cap, nlen := nlen, mode := mode, accRest := 0, accOff := 0, oidx := 0, icnt := 0,
    active := true, done := false,
    accAny := false, outAny := false, termWritten := false, staleDraw := s.staleDraw + 1 }

/-! ## The element step -/

/-- `Emit(g)` (R104). Where the spec leaves the output at any value (`any`), the entry takes a free value instead (U1, U4). -/
def State.emit (any : Bool) (g : Nat) (s : State) : State :=
  let v := if any then Config.anyOutput s.draws else outputValue s.toff s.oewsel g
  { s.obufWrite s.oidx.toNat v with
    oidx := s.oidx + 1, draws := if any then s.draws + 1 else s.draws }

/-- The accumulator's new content at the end of an element: the bit count, the rest, and whether a pending bit came from an
out-of-range element. -/
def State.setAcc (off rest : Nat) (any : Bool) (s : State) : State :=
  { s with accOff := BitVec.ofNat 5 off, accRest := BitVec.ofNat 16 rest, accAny := any }

/-- The loop and the fold of PUSH (R111). `value` is the element's input value, `elemAny` whether the element is out of range,
`off` and `rest` the loop's variables, `restAny` whether `rest` holds a bit of an out-of-range element. With legal widths each
turn lowers `off` by at least 1, so `off` turns suffice as fuel (R115); what it does beyond, with TW = 0, no run reaches
(log 11). -/
def pushLoop (value : Nat) (elemAny : Bool) : Nat → Nat → Nat → Bool → State → State
  | 0, off, rest, restAny, s =>
    s.setAcc off (foldRest s.tw.toNat rest value off) (decide (off ≠ 0) && (restAny || elemAny))
  | fuel + 1, off, rest, restAny, s =>
    if s.tw.toNat ≤ off then
      let off' := off - s.tw.toNat
      let s' := s.emit (restAny || elemAny || s.outAny) (groupValue s.tw.toNat rest value off')
      if s'.full then s'.setAcc off' 0 false
      else pushLoop value elemAny fuel off' 0 false s'
    else s.setAcc off (foldRest s.tw.toNat rest value off) (decide (off ≠ 0) && (restAny || elemAny))

/-- The element of this PUSH is the first to show that the decode session lies outside the encoder image: the unit is out of
range (R152, condition 3), or it is the last of the NLEN units and a pad bit of it is 1 (condition 4). ICNT has counted the
PUSH. -/
def State.unitOutsideImage (x : Elem) (s : State) : Bool :=
  s.mode == .dec && !s.outAny &&
    (!elemInRange s.sw s.soff x ||
      (s.icnt.toNat == s.nlen.toNat &&
        decide (inputValue s.sw s.soff x % 2 ^ padBits s.cap.toNat s.nlen.toNat ≠ 0)))

/-- From here on the decode session's outputs are any value, those written before among them (R156, U1; log 6). -/
def State.leaveImage (s : State) : State :=
  { s with
    obuf := s.obuf.redraw s.draws s.cap.toNat, draws := s.draws + s.cap.toNat, outAny := true }

/-- Counts a PUSH: `ICNT <- (ICNT + 1) mod 2^32` (R41, R111). -/
def State.countPush (s : State) : State := { s with icnt := s.icnt + 1 }

/-- Ends a session: ACTIVE 0, DONE 1 (R112). -/
def State.endSession (s : State) : State := { s with active := false, done := true }

/-! ## The host -/

/-- The entries that the current or last session wrote: those below OIDX, and entry CAP - 1 after ETERM (R74, R237). -/
def State.sessionWrote (s : State) (i : Nat) : Bool :=
  decide (i < s.oidx.toNat) || (s.termWritten && i + 1 == s.cap.toNat)

/-- What a host read gives for OBUF[i]: the content if the session wrote the entry, else any value (R61, R74, U5, U6). -/
def State.entry (s : State) (i : Nat) : Elem :=
  match s.sessionWrote i, s.obuf.read i with
  | true, some v => v
  | _, _ => Config.staleEntry s.staleDraw i

/-- The register at an address of the read space, zero-extended; an address that names none reads 0 (R61). -/
def State.registerWord (s : State) (addr : Nat) : Word :=
  match addr with
  | 0x0 => s.statusWord
  | 0x1 => s.cfgWord
  | 0x2 => s.soff.setWidth 32
  | 0x3 => s.toff.setWidth 32
  | 0x4 => s.cap.setWidth 32
  | 0x5 => s.nlen.setWidth 32
  | 0x6 => s.resid.setWidth 32
  | 0x7 => s.accRest.setWidth 32
  | 0x8 => s.accOff.setWidth 32
  | 0x9 => s.oidx.setWidth 32
  | 0xA => s.icnt
  | 0xB => s.depth.setWidth 32
  | _ => 0

/-- The word a read of an address returns (R61): at 0x1000_0000 + i, whose bits 31:28 are 1 and whose bits 27:0 are i, entry i,
else a register. It is a function of the state: a read has no side effect (R61, R67). -/
def State.readWord (s : State) (addr : Word) : Word :=
  let i := (addr.extractLsb' 0 28).toNat
  if addr.extractLsb' 28 4 = 1 ∧ i < s.depth.toNat then (s.entry i).setWidth 32 else s.registerWord addr.toNat

/-- The read port answers: the reply is the word, and no register, entry or error flag changes (R61, R62). -/
def State.hostRead (addr : Word) (s : State) : State := { s with reply := some (s.readWord addr) }

/-- Reset: the state of R230, DEPTH unchanged (R42), OBUF unspecified and drawn anew (R231, U7). The host's side, its events and
its last reply, is no state of the block. -/
def State.hostReset (s : State) : State :=
  { State.resetAt s.depth with
    draws := s.draws, staleDraw := s.staleDraw + 1, port := s.port, reply := s.reply }

/-- The host's next event and the state once it is taken from the port, or none while nothing has arrived. Events are taken in
order of arrival (R21, R62). -/
def takeEvent (s : State) : Option (HostEvent × State) :=
  match s.port with
  | [] => none
  | e :: rest => some (e, { s with port := rest })

/-- The host puts a command word on the port, to be taken next. -/
def State.offerCommand (w : Word) (s : State) : State := { s with port := .command w :: s.port }

end Sys2Proof.Machine
end

