-- ==== Sys2Proof/Machine/Control.lean ====
section
/-! DEFINITION. The control commands (43_control.md): NOP, ABORT, CLRERR. -/

namespace Sys2Proof.Machine

open Host (Outcome)

/-- NOP (R160). -/
def execNop (s : State) : Outcome State Fault Refusal := perform [] id s

/-- ABORT (R161). -/
def execAbort (s : State) : Outcome State Fault Refusal :=
  perform [] (fun s => { s with active := false, done := false, mode := .none, rvalid := false }) s

/-- CLRERR (R162). -/
def execClrerr (s : State) : Outcome State Fault Refusal := perform [] State.clearError s

end Sys2Proof.Machine
end

