-- ==== Sys2Proof/Machine/DecoderCommands.lean ====
section
/-! DEFINITION. The decoder framing commands (42_decoder.md): DTERM, DSTART. -/

namespace Sys2Proof.Machine

open Host (Outcome)

/-- DTERM (R150). -/
def execDterm (t : Elem) (s : State) : Outcome State Fault Refusal :=
  perform [(s.active, .busy)] (fun s => { s with resid := residueOf t, rvalid := true }) s

/-- DSTART's effect for the byte count n: the DEC preset of R44, a session of capacity n, and the residue consumed (R151). A
terminator or a count that no encode gives makes the session's outputs any value (R152, R156; log 6). -/
def State.startDecode (n : Nat) (l : Count) (s : State) : State :=
  { (s.loadPreset 14 8 0 dataBase 0).sessionInit .dec (BitVec.ofNat 28 n) l with
    rvalid := false, outAny := !headerInImage s.resid n l.toNat }

/-- DSTART (R151). -/
def execDstart (l : Count) (s : State) : Outcome State Fault Refusal :=
  let n := decodeCount s.resid l.toNat
  perform
    [(s.active, .busy), (!s.rvalid, .seq), (decide (n < 0 ∨ (s.depth.toNat : Int) < n), .cap)]
    (State.startDecode n.toNat l) s

end Sys2Proof.Machine
end

