-- ==== Sys2Proof/Machine/EncoderCommands.lean ====
section
/-! DEFINITION. The encoder framing commands (41_encoder.md): ESTART, ETERM. -/

namespace Sys2Proof.Machine

open Host (Outcome)

/-- ESTART (R140): the ENC preset of R44 and a session of capacity `ceil(4n / 7) + 1`. -/
def execEstart (n : Count) (s : State) : Outcome State Fault Refusal :=
  perform [(s.active, .busy), (decide (s.depth.toNat < encodeCapacity n.toNat), .cap)]
    (fun s => (s.loadPreset 8 14 1 0 dataBase).sessionInit .enc (BitVec.ofNat 28 (encodeCapacity n.toNat)) n) s

/-- ETERM's write of the terminator unit into the last entry; OIDX is not changed (R141). -/
def State.writeTerminator (s : State) : State :=
  { s.obufWrite (s.cap.toNat - 1) (terminatorUnit s.nlen.toNat) with termWritten := true }

/-- ETERM (R141). -/
def execEterm (s : State) : Outcome State Fault Refusal :=
  perform
    [(s.active, .busy), (s.mode != .enc || !s.done || s.icnt.toNat != s.nlen.toNat, .seq)]
    State.writeTerminator s

end Sys2Proof.Machine
end

