-- ==== Sys2Proof/Machine/Realigner.lean ====
section
/-! DEFINITION. The realigner core commands (40_realigner.md): CFGW, CFGSO, CFGTO, GSTART, PUSH, FLUSH. -/

namespace Sys2Proof.Machine

open Host (Outcome)

/-- CFGW (R107). -/
def execCfgw (sw tw : Width) (oewsel : BitVec 1) (s : State) : Outcome State Fault Refusal :=
  perform [(s.active, .busy), (!cfgLegal sw tw oewsel, .cfg)] (State.setWidths sw tw oewsel) s

/-- CFGSO (R108). -/
def execCfgso (imm : Elem) (s : State) : Outcome State Fault Refusal :=
  perform [(s.active, .busy)] (fun s => { s with soff := imm }) s

/-- CFGTO (R109). -/
def execCfgto (imm : Elem) (s : State) : Outcome State Fault Refusal :=
  perform [(s.active, .busy)] (fun s => { s with toff := imm }) s

/-- GSTART (R110). -/
def execGstart (cap : Count) (s : State) : Outcome State Fault Refusal :=
  perform
    [(s.active, .busy), (!cfgLegal s.sw s.tw s.oewsel, .cfg), (decide (s.depth.toNat < cap.toNat), .cap)]
    (State.sessionInit .gen cap 0) s

/-- The element step on a session that is not full (R111, after the test for a full buffer). -/
def State.takeElement (x : Elem) (s : State) : State :=
  let s := if s.unitOutsideImage x then s.leaveImage else s
  let off := s.accOff.toNat + s.sw.toNat
  pushLoop (inputValue s.sw s.soff x) (!elemInRange s.sw s.soff x) off off s.accRest.toNat s.accAny s

/-- PUSH's effect: the PUSH is counted; a full session discards the element (R106, R111). -/
def State.pushElement (x : Elem) (s : State) : State :=
  let s := s.countPush
  if s.full then s else s.takeElement x

/-- PUSH (R111). -/
def execPush (x : Elem) (s : State) : Outcome State Fault Refusal :=
  perform [(!s.active, .notActive)] (State.pushElement x) s

/-- FLUSH's last group: emitted if a bit is pending and the buffer has room, without masking (R112). -/
def State.emitPending (s : State) : State :=
  if 0 < s.accOff.toNat ∧ s.oidx.toNat < s.cap.toNat then s.emit (s.accAny || s.outAny) s.accRest.toNat else s

/-- FLUSH (R112). -/
def execFlush (s : State) : Outcome State Fault Refusal :=
  perform [(!s.active, .notActive)] (fun s => s.emitPending.endSession) s

end Sys2Proof.Machine
end

