-- ==== Sys2Proof/Machine/Dispatch.lean ====
section
/-! DEFINITION. One arm per command of the opcode map (R86). -/

namespace Sys2Proof.Machine

open Host (Outcome)

def exec (i : Instr) (s : State) : Host.Outcome State Fault Refusal :=
  match i with
  | .nop => Sys2Proof.Machine.execNop s
  | .cfgw sw tw oewsel => Sys2Proof.Machine.execCfgw sw tw oewsel s
  | .cfgso imm => Sys2Proof.Machine.execCfgso imm s
  | .cfgto imm => Sys2Proof.Machine.execCfgto imm s
  | .gstart cap => Sys2Proof.Machine.execGstart cap s
  | .estart n => Sys2Proof.Machine.execEstart n s
  | .dterm t => Sys2Proof.Machine.execDterm t s
  | .dstart l => Sys2Proof.Machine.execDstart l s
  | .push x => Sys2Proof.Machine.execPush x s
  | .flush => Sys2Proof.Machine.execFlush s
  | .eterm => Sys2Proof.Machine.execEterm s
  | .abort => Sys2Proof.Machine.execAbort s
  | .clrerr => Sys2Proof.Machine.execClrerr s

end Sys2Proof.Machine
end

