-- ==== Sys2Proof/Machine/Words.lean ====
section
/-! DEFINITION. Performing one command word, legal or not (R80, R90). -/

namespace Sys2Proof.Machine

open Host (Outcome)

/-- Performs a command word: the command it decodes to, and for any other word `raise E_ILLEGAL` (R87, R88, R90). -/
def performWord (w : Word) (s : State) : Outcome State Fault Refusal :=
  match decode w with
  | .command i => exec i s
  | .illegal _ => performIllegal s

end Sys2Proof.Machine
end

