-- ==== Sys2Proof/Machine/Step.lean ====
section
/-! DEFINITION. One step: the block takes the host's next event and performs it to completion (R5, R62). -/

namespace Sys2Proof.Machine

open Host (Outcome)

/-- One step. With no event on the port the block waits and holds its state (R213, R230). A command word is decoded and
performed, an illegal one refused with E_ILLEGAL (R90); a read is answered between two commands (R62); a reset gives the reset
state (R231). -/
def step (s : State) : Outcome State Fault Refusal :=
  match takeEvent s with
  | none => .next s
  | some (.command w, t) => performWord w t
  | some (.read addr, t) => .next (t.hostRead addr)
  | some (.reset, t) => .next t.hostReset

/-- The state with a row of the opcode table as the command word that arrives next on the port: the block fetches nothing
(R21), so a program comes to run by the host issuing its words (log 8). -/
def State.withFetchWord (s : State) (nbits w : Nat) : State := s.offerCommand (tableWord nbits w)

end Sys2Proof.Machine
end

