-- ==== Sys2Proof/Machine/Stream.lean ====
section
/-! DEFINITION. The bit stream of a session (R64, R113) and the source's routines over value sequences that the block realises:
`realign` (R100, R114), `encode` (R142), `decode` (R153), with the encoder image (R152). No command uses them: they are what the
laws of the core, the encoder and the decoder compare the block with. -/

namespace Sys2Proof.Machine

/-- A value as `width` bits, most significant first (R64). -/
def bitsOf (width v : Nat) : List Bool := (List.range width).map fun j => v.testBit (width - 1 - j)

/-- The number that a bit string spells, most significant bit first. -/
def bitsValue (bits : List Bool) : Nat := bits.foldl (fun acc b => 2 * acc + b.toNat) 0

/-- The bit string `v_0 v_1 ...` of the elements, each as `sw` bits (R113). -/
def bitStream (sw : Nat) (values : List Nat) : List Bool := values.flatMap (bitsOf sw)

/-- The group g_k: the bits `S[k*TW .. k*TW + TW - 1]`, missing bits taken as 0 (R113). -/
def streamGroup (tw : Nat) (stream : List Bool) (k : Nat) : Nat :=
  let bits := (stream.drop (k * tw)).take tw
  bitsValue (bits ++ List.replicate (tw - bits.length) false)

/-- The values `v_j = x_j - SOFF` of in-range elements (R113). -/
def elemValues (soff : Elem) (xs : List Elem) : List Nat := xs.map fun x => x.toNat - soff.toNat

/-- The stream of a session's elements (R113). -/
def elemStream (sw : Width) (soff : Elem) (xs : List Elem) : List Bool := bitStream sw.toNat (elemValues soff xs)

/-- The entries that a session of these widths, offsets and capacity writes for in-range elements: entry k is
`(g_k + TOFF) mod 2^OEW`, for k below `min(G, CAP)` with `G = ceil(m * SW / TW)` (R113, R114). -/
def realign (sw tw : Width) (oewsel : BitVec 1) (soff toff : Elem) (cap : Nat) (xs : List Elem) : List Elem :=
  (List.range (min (ceilDiv (xs.length * sw.toNat) tw.toNat) cap)).map fun k =>
    outputValue toff oewsel (streamGroup tw.toNat (elemStream sw soff xs) k)

/-- The source's `encode`: the bytes realigned 8 to 14 bits with 0x4E00 added, and the terminator unit in the last place (R100,
R142). A byte is given as the element pushed for it. -/
def encodeUnits (bytes : List Elem) : List Elem :=
  realign 8 14 1 0 dataBase (encodeCapacity bytes.length) bytes ++ [terminatorUnit bytes.length]

/-- The source's byte count of `units` with the terminator `t` (R151). -/
def unitsCount (units : List Elem) (t : Elem) : Int := decodeCount (residueOf t) units.length

/-- The source's `decode`: the units realigned 14 to 8 bits with 0x4E00 subtracted, up to the byte count (R153). -/
def decodeBytes (units : List Elem) (t : Elem) : List Elem :=
  realign 14 8 0 dataBase 0 (unitsCount units t).toNat units

/-- A data unit of an encode lies in 0x4E00..0x8DFF (R145, R152 condition 3). -/
def isDataUnit (u : Elem) : Bool := decide (0x4E00 ≤ u.toNat ∧ u.toNat ≤ 0x8DFF)

/-- `Image(U)` for the data units and the terminator of U, condition by condition (R152). -/
def inImage (units : List Elem) (t : Elem) : Bool :=
  decide (0x3D00 ≤ t.toNat ∧ t.toNat ≤ 0x3D06) &&
    decide (0 ≤ unitsCount units t ∧ ceilDiv (4 * (unitsCount units t).toNat) 7 = units.length) &&
    units.all isDataUnit &&
    units.getLast?.all fun u =>
      decide ((u.toNat - 0x4E00) % 2 ^ padBits (unitsCount units t).toNat units.length = 0)

end Sys2Proof.Machine
end

