-- ==== Sys2Proof/Machine/Sessions.lean ====
section
/-! DEFINITION. Runs of command words (R240), runs of steps, and the command sequences of whole sessions (R93, R236). -/

namespace Sys2Proof.Machine

open Host (Outcome)

/-- Performs each of a list in order, from the state that the one before it left (R21, R62). -/
def performAll {α : Type} (act : α → State → Outcome State Fault Refusal) : List α → State → Outcome State Fault Refusal
  | [], s => .next s
  | a :: rest, s =>
    match act a s with
    | .next t => performAll act rest t
    | .fault r => .fault r
    | .refused r => .refused r

/-- A run: a finite sequence of command words, each performed in order; an illegal word is refused and the run goes on. The run
ends when its last word has been performed, and its observation is the read space of the state it gives, `State.readWord` (R240). -/
def runWords (words : List Word) (s : State) : Outcome State Fault Refusal := performAll performWord words s

/-- A run whose words are all legal, given as the commands they decode to. -/
def runCommands (commands : List Instr) (s : State) : Outcome State Fault Refusal := performAll exec commands s

/-- n steps. -/
def runSteps : Nat → State → Outcome State Fault Refusal
  | 0, s => .next s
  | n + 1, s =>
    match step s with
    | .next t => runSteps n t
    | .fault r => .fault r
    | .refused r => .refused r

/-- The PUSH commands of a session's elements and the FLUSH that ends it. -/
def feed (xs : List Elem) : List Instr := xs.map .push ++ [.flush]

/-- `ENCODE b_0, ...` as commands (R93). -/
def encodeCommands (bytes : List Elem) : List Instr :=
  .estart (BitVec.ofNat 28 bytes.length) :: (feed bytes ++ [.eterm])

/-- `DECODE u_0, ..., t` as commands (R93). -/
def decodeCommands (units : List Elem) (t : Elem) : List Instr :=
  .dterm t :: .dstart (BitVec.ofNat 28 units.length) :: feed units

/-- The first n entries of OBUF as the host reads them. -/
def State.entries (s : State) (n : Nat) : List Elem := (List.range n).map s.entry

end Sys2Proof.Machine
end

