-- ==== Sys2Proof/Safety.lean ====
section
/-! DEFINITION. What counts as a safe run, in the terms claims use: launch states (R241), the result of a run (R242), and the
invariants that every step keeps. -/

namespace Sys2Proof.Machine

/-- A launch state's premises: no session open, no error recorded (R241). -/
abbrev State.Launchable (s : State) : Prop := s.active = false ∧ s.err = false

/-- A run has a result only if it ends with ERR = 0, ACTIVE = 0 and DONE = 1 (R242). -/
def State.hasResult (s : State) : Bool := !s.err && !s.active && s.done

/-- The low byte of an entry (R242). -/
def lowByte (e : Elem) : Elem := e &&& 0xFF

/-- The result of a run, by the kind of its last session (R242). It reads OBUF as the host does, so a decode outside the encoder
image gives free values (R156). -/
def State.result (s : State) : Option (List Elem) :=
  if s.hasResult then
    match s.mode with
    | .none => none
    | .gen => some (s.entries s.oidx.toNat)
    | .enc => if s.termWritten then some (s.entries s.cap.toNat) else none
    | .dec => some ((s.entries s.cap.toNat).map lowByte)
  else none

/-- The state after a refused command or word with this cause code: the error record takes the code if ERR was 0, and everything
else stays (R201). -/
def State.refusedWith (code : BitVec 4) (s : State) : State :=
  { s with err := true, ecode := if s.err = false then code else s.ecode }

/-- The error record: ECODE is 0 while ERR = 0, and otherwise one of the causes 1 to 6 (R23, R202). -/
def State.ErrorRecordOk (s : State) : Prop :=
  (s.err = false → s.ecode = 0) ∧ (s.err = true → 1 ≤ s.ecode.toNat ∧ s.ecode.toNat ≤ 6)

/-- The session flags: ACTIVE and DONE are never both 1 (R24), and MODE is NONE exactly when neither is set (R28). -/
def State.SessionFlagsOk (s : State) : Prop :=
  ¬ (s.active = true ∧ s.done = true) ∧ (s.mode = .none ↔ s.active = false ∧ s.done = false)

/-- CFG holds legal widths or its reset value 0, and legal widths while a session is open (R31, R110). -/
def State.WidthsOk (s : State) : Prop :=
  (cfgLegal s.sw s.tw s.oewsel = true ∨ s.sw = 0 ∧ s.tw = 0 ∧ s.oewsel = 0) ∧
    (s.active = true → cfgLegal s.sw s.tw s.oewsel = true)

/-- The capacity chain: OIDX <= CAP <= OBUF_DEPTH (R34, R40), and the parameter is at least 1 (R6). -/
def State.CapacityOk (s : State) : Prop :=
  s.oidx.toNat ≤ s.cap.toNat ∧ s.cap.toNat ≤ s.depth.toNat ∧ 1 ≤ s.depth.toNat

/-- The accumulator in an open session (R37, R38, R39, R106): while the buffer has room, fewer than TW bits are pending, at the
top of the TW-bit field with zeros below; once it is full, ACC_REST is 0 and ACC_OFF at most SW - 1. -/
def State.AccumulatorOk (s : State) : Prop :=
  s.active = true →
    (s.full = false →
      s.accOff.toNat < s.tw.toNat ∧ s.accRest.toNat < 2 ^ s.tw.toNat ∧
        s.accRest.toNat % 2 ^ (s.tw.toNat - s.accOff.toNat) = 0) ∧
    (s.full = true → s.accRest = 0 ∧ s.accOff.toNat < s.sw.toNat)

/-- An open encode or decode session has its preset (R44, R140, R151), and a session its capacity and length: ENC the capacity of
NLEN bytes, GEN no length (R35, R110, R140). -/
def State.PresetOk (s : State) : Prop :=
  (s.active = true → s.mode = .enc → s.sw = 8 ∧ s.tw = 14 ∧ s.oewsel = 1 ∧ s.soff = 0 ∧ s.toff = dataBase) ∧
    (s.active = true → s.mode = .dec → s.sw = 14 ∧ s.tw = 8 ∧ s.oewsel = 0 ∧ s.soff = dataBase ∧ s.toff = 0) ∧
    (s.mode = .gen → s.nlen = 0) ∧
    (s.mode = .enc → s.cap.toNat = encodeCapacity s.nlen.toNat)

/-- OBUF is in its canonical form, no entry lies outside it, and every entry that the session wrote has known content (R43, R63,
R74). -/
def State.BufferOk (s : State) : Prop :=
  s.obuf.wf ∧ (∀ i, s.depth.toNat ≤ i → s.obuf.read i = none) ∧
    (∀ i, s.sessionWrote i = true → (s.obuf.read i).isSome = true)

/-- The invariant of the block: what the rules say of its state between commands. -/
structure State.Inv (s : State) : Prop where
  errorRecord : s.ErrorRecordOk
  sessionFlags : s.SessionFlagsOk
  widths : s.WidthsOk
  capacity : s.CapacityOk
  accumulator : s.AccumulatorOk
  preset : s.PresetOk
  buffer : s.BufferOk

end Sys2Proof.Machine
end

