-- ==== Sys2Proof/Certificates/Slice0/Obligations.lean ====
section
/-! DEFINITION. The statements for the provers, family by family: encoding, the step, the host's side, each command, the rules of
the whole machine, the laws of the core, the encoder and the decoder. -/

open Sys2Proof Sys2Proof.Machine

/-! ## Encoding -/

/-- Decoding the encoding of a command gives that command back, for every command and every operand. -/
def Obligations.DecodeOfEncodeIsTheCommand : Prop :=
  ∀ i : Instr, decode (encode i) = .command i

/-- Encoding the command that a word decodes to gives that word back: decoding drops no bit. -/
def Obligations.EncodeOfDecodeIsTheWord : Prop :=
  ∀ (w : Word) (i : Instr), decode w = .command i → encode i = w

/-- R86: a word encodes a command exactly when it matches the command's row, `(w & mask) == match`; the words that match no row
are the illegal ones. -/
def Obligations.WordDecodesByMatchAndMask : Prop :=
  (∀ (w : Word) (i : Instr), i.row.matches w = true ↔ ∃ j, decode w = .command j ∧ j.row = i.row) ∧
  (∀ w : Word, w.legal = false ↔ ∃ why, decode w = .illegal why)

/-- Thirteen words written out from the opcode map decode to the commands they stand for. -/
def Obligations.SampleWordsDecode : Prop :=
  decode 0x00000000 = .command .nop ∧
  decode 0x10010E08 = .command (.cfgw 8 14 1) ∧
  decode 0x20004E00 = .command (.cfgso 0x4E00) ∧
  decode 0x3000FFFF = .command (.cfgto 0xFFFF) ∧
  decode 0x4FFFFFFF = .command (.gstart 0xFFFFFFF) ∧
  decode 0x5000006E = .command (.estart 110) ∧
  decode 0x60003CFF = .command (.dterm 0x3CFF) ∧
  decode 0x70000025 = .command (.dstart 37) ∧
  decode 0x8000ABCD = .command (.push 0xABCD) ∧
  decode 0x90000000 = .command .flush ∧
  decode 0xA0000000 = .command .eterm ∧
  decode 0xB0000000 = .command .abort ∧
  decode 0xC0000000 = .command .clrerr

/-- The word of each assembler command with operands in range is the one that the syntax table computes, and a command with an
operand out of range is an assembly error. -/
def Obligations.AssemblerWordsAreTheTables : Prop :=
  (∀ c : AsmCommand, c.inRange = false → assembleLine (.command c) = none) ∧
  ∀ c : AsmCommand, c.inRange = true → assembleLine (.command c) = some [c.toInstr] ∧
    (encode c.toInstr).toNat = match c with
      | .nop => 0x00000000
      | .cfgw sw tw oew => 0x10000000 ||| (if oew = 16 then 1 else 0) <<< 16 ||| tw <<< 8 ||| sw
      | .cfgso imm => 0x20000000 ||| imm
      | .cfgto imm => 0x30000000 ||| imm
      | .gstart cap => 0x40000000 ||| cap
      | .estart n => 0x50000000 ||| n
      | .dterm t => 0x60000000 ||| t
      | .dstart l => 0x70000000 ||| l
      | .push x => 0x80000000 ||| x
      | .flush => 0x90000000
      | .eterm => 0xA0000000
      | .abort => 0xB0000000
      | .clrerr => 0xC0000000

/-! ## The step and the host's side -/

/-- When the word at the head of the port decodes to a command, the step is `exec` of that command at the state with the word
taken off the port; the step does nothing else. -/
def Obligations.StepPerformsTheDecodedCommand : Prop :=
  ∀ (s : State) (w : Word) (rest : List HostEvent) (i : Instr),
    s.port = .command w :: rest → decode w = .command i → step s = exec i { s with port := rest }

/-- R87: a word whose OP is 0xD, 0xE or 0xF is refused with E_ILLEGAL and has no other effect. -/
def Obligations.ReservedOpcodeWordIsRefused : Prop :=
  ∀ (s : State) (w : Word) (rest : List HostEvent), s.port = .command w :: rest →
    (w.field 28 4 = 0xD ∨ w.field 28 4 = 0xE ∨ w.field 28 4 = 0xF) →
    step s = .next (State.refusedWith 1 { s with port := rest })

/-- R88: a word whose OP names a command and whose reserved bits are not all zero is refused with E_ILLEGAL and has no other
effect; the reserved bits are those of the command's format, and format L has none. -/
def Obligations.ReservedBitsWordIsRefused : Prop :=
  ∀ (s : State) (w : Word) (rest : List HostEvent), s.port = .command w :: rest →
    ((w.field 28 4 ∈ ([0x0, 0x9, 0xA, 0xB, 0xC] : List (BitVec 4)) → w.field 0 28 ≠ 0 →
        step s = .next (State.refusedWith 1 { s with port := rest })) ∧
      (w.field 28 4 = 0x1 → (w.field 17 11 ≠ 0 ∨ w.field 13 3 ≠ 0 ∨ w.field 5 3 ≠ 0) →
        step s = .next (State.refusedWith 1 { s with port := rest })) ∧
      (w.field 28 4 ∈ ([0x2, 0x3, 0x6, 0x8] : List (BitVec 4)) → w.field 16 12 ≠ 0 →
        step s = .next (State.refusedWith 1 { s with port := rest })) ∧
      (w.field 28 4 ∈ ([0x4, 0x5, 0x7] : List (BitVec 4)) → ∃ i, decode w = .command i))

/-- R61, the read map: each register address gives its register, 0x1000_0000 + i gives entry i of the output buffer, and every
other address gives 0. The step that answers a read changes nothing but the host's reply and its port, so every later read gives
what it gave before. -/
def Obligations.ReadFollowsTheMapWithoutSideEffect : Prop :=
  (∀ s : State,
    s.readWord 0x0 = s.statusWord ∧ s.readWord 0x1 = s.cfgWord ∧
    s.readWord 0x2 = s.soff.setWidth 32 ∧ s.readWord 0x3 = s.toff.setWidth 32 ∧
    s.readWord 0x4 = s.cap.setWidth 32 ∧ s.readWord 0x5 = s.nlen.setWidth 32 ∧
    s.readWord 0x6 = s.resid.setWidth 32 ∧ s.readWord 0x7 = s.accRest.setWidth 32 ∧
    s.readWord 0x8 = s.accOff.setWidth 32 ∧ s.readWord 0x9 = s.oidx.setWidth 32 ∧
    s.readWord 0xA = s.icnt ∧ s.readWord 0xB = s.depth.setWidth 32 ∧
    (∀ i, i < s.depth.toNat → s.readWord (BitVec.ofNat 32 (0x10000000 + i)) = (s.entry i).setWidth 32) ∧
    (∀ a : Word, 0xB < a.toNat → (a.toNat < 0x10000000 ∨ 0x10000000 + s.depth.toNat ≤ a.toNat) → s.readWord a = 0)) ∧
  (∀ (s : State) (a : Word) (rest : List HostEvent), s.port = .read a :: rest →
    step s = .next { s with port := rest, reply := some (s.readWord a) } ∧
    ∀ b, State.readWord { s with port := rest, reply := some (s.readWord a) } b = s.readWord b)

/-- A host read of an entry that the session wrote, below OIDX or at CAP - 1 after ETERM, gives the content of the buffer; a read
of any other entry gives a free value, so nothing is claimed of stale or reset content (the model's choice of log 3 and 4). -/
def Obligations.ReadsOfSessionEntriesGiveTheirContent : Prop :=
  ∀ (s : State) (i : Nat) (v : Elem),
    ((i < s.oidx.toNat ∨ (s.termWritten = true ∧ i + 1 = s.cap.toNat)) → s.obuf.read i = some v → s.entry i = v) ∧
    (¬ (i < s.oidx.toNat ∨ (s.termWritten = true ∧ i + 1 = s.cap.toNat)) →
      s.entry i = Config.staleEntry s.staleDraw i)

/-- R23, R30: the fields of the STATUS word, FULL derived, bits 31:11 zero. -/
def Obligations.StatusWordHasItsFields : Prop :=
  ∀ s : State,
    s.statusWord.field 0 1 = BitVec.ofBool s.active ∧
    s.statusWord.field 1 1 = BitVec.ofBool s.done ∧
    s.statusWord.field 2 1 = (if s.oidx = s.cap then 1 else 0) ∧
    s.statusWord.field 3 1 = BitVec.ofBool s.err ∧
    s.statusWord.field 4 4 = s.ecode ∧
    s.statusWord.field 8 2 = (match s.mode with | .none => 0 | .gen => 1 | .enc => 2 | .dec => 3) ∧
    s.statusWord.field 10 1 = BitVec.ofBool s.rvalid ∧
    s.statusWord.field 11 21 = 0

/-- The fields of the CFG word: SW, TW and OEWSEL in their places, every other bit 0. -/
def Obligations.CfgWordHasItsFields : Prop :=
  ∀ s : State,
    s.cfgWord.field 0 5 = s.sw ∧ s.cfgWord.field 5 3 = 0 ∧ s.cfgWord.field 8 5 = s.tw ∧
    s.cfgWord.field 13 3 = 0 ∧ s.cfgWord.field 16 1 = s.oewsel ∧ s.cfgWord.field 17 15 = 0

/-- R230: the reset state's registers as its table gives them; STATUS reads 0x0000_0004, DEPTH is the open parameter, every entry of
the output buffer is a free draw, and the block waits for the first command word. -/
def Obligations.ResetStateIsTheTables : Prop :=
  let s := State.reset
  s.active = false ∧ s.done = false ∧ s.full = true ∧ s.err = false ∧ s.ecode = 0 ∧ s.mode = .none ∧ s.rvalid = false ∧
  s.statusWord = 0x00000004 ∧ s.cfgWord = 0x00000000 ∧ s.soff = 0x0000 ∧ s.toff = 0x0000 ∧ s.cap = 0 ∧ s.nlen = 0 ∧
  s.resid = 0 ∧ s.accRest = 0 ∧ s.accOff = 0 ∧ s.oidx = 0 ∧ s.icnt = 0 ∧ s.depth = Config.obufDepth ∧
  (∀ i, s.obuf.read i = none ∧ s.entry i = Config.staleEntry s.staleDraw i) ∧ step s = .next s

/-- A reset between two commands puts every register in the reset state, whatever the state was, and leaves DEPTH; no entry of
the output buffer has known content after it: each reads as a free value of a draw other than the one before the reset (U7). The
host's events and its last reply are no state of the block (log 8, 9, 10). -/
def Obligations.ResetEventGivesTheResetState : Prop :=
  ∀ (s : State) (rest : List HostEvent), s.port = .reset :: rest →
    ∃ t, step s = .next t ∧
      t = { State.resetAt s.depth with
        draws := s.draws, staleDraw := t.staleDraw, port := rest, reply := s.reply } ∧
      t.staleDraw ≠ s.staleDraw ∧
      ∀ i, t.obuf.read i = none ∧ t.entry i = Config.staleEntry t.staleDraw i

/-- Every host event completes: a step always answers a next state, in every state; with no event on the port the block waits and
holds its state (log 8). -/
def Obligations.EveryEventCompletes : Prop :=
  (∀ s : State, ∃ t, step s = .next t) ∧ (∀ s : State, s.port = [] → step s = .next s)

/-- A run of command words, legal and illegal: the block performs the words in order, one a step, and after the last one each
host read gives the word of the read map of the state that the run ends in. The illegal words of a run are refused with E_ILLEGAL
and the run goes on, and a run of the words of commands is those commands in order. -/
def Obligations.RunPerformsItsWordsInOrder : Prop :=
  (∀ (ws : List Word) (s : State) (rest : List HostEvent), s.port = ws.map .command ++ rest →
    ∃ t, runWords ws { s with port := rest } = .next t ∧ runSteps ws.length s = .next t ∧ t.port = rest ∧
      ∀ a more, rest = .read a :: more →
        runSteps (ws.length + 1) s = .next { t with port := more, reply := some (t.readWord a) }) ∧
  (∀ (before after : List Word) (w : Word) (s t : State), runWords before s = .next t →
    (w.legal = false → runWords (before ++ w :: after) s = runWords after (t.refusedWith 1)) ∧
    (∀ i u, decode w = .command i → exec i t = .next u → runWords (before ++ w :: after) s = runWords after u)) ∧
  (∀ (is : List Instr) (s : State), runWords (is.map encode) s = runCommands is s)

/-! ## The commands -/

/-- R160: NOP has no effect, in every state; a word of its OP with any other bit set is refused with E_ILLEGAL. -/
def Obligations.NopChangesNothing : Prop :=
  decode 0x00000000 = .command .nop ∧ (∀ s : State, exec .nop s = .next s) ∧
  ∀ (s : State) (w : Word) (rest : List HostEvent), s.port = .command w :: rest →
    w.field 28 4 = 0x0 → w.field 0 28 ≠ 0 → step s = .next (State.refusedWith 1 { s with port := rest })

/-- R107: CFGW's encoding, its two refusals in order, and the widths it writes; everything else stays. -/
def Obligations.CfgwWritesLegalWidths : Prop :=
  (∀ (sw tw : Width) (o : BitVec 1),
    decode ((0x1 : BitVec 4) ++ (0 : BitVec 11) ++ o ++ (0 : BitVec 3) ++ tw ++ (0 : BitVec 3) ++ sw) =
      .command (.cfgw sw tw o)) ∧
  ∀ (sw tw : Width) (o : BitVec 1) (s : State),
    (s.active = true → exec (.cfgw sw tw o) s = .next (s.refusedWith 2)) ∧
    (s.active = false →
      ¬ (1 ≤ sw.toNat ∧ sw.toNat ≤ 16 ∧ 1 ≤ tw.toNat ∧ tw.toNat ≤ if o = 0 then 8 else 16) →
      exec (.cfgw sw tw o) s = .next (s.refusedWith 4)) ∧
    (s.active = false →
      (1 ≤ sw.toNat ∧ sw.toNat ≤ 16 ∧ 1 ≤ tw.toNat ∧ tw.toNat ≤ if o = 0 then 8 else 16) →
      exec (.cfgw sw tw o) s = .next { s with sw := sw, tw := tw, oewsel := o })

/-- R108: CFGSO's encoding, its refusal and the input offset it writes; everything else stays. -/
def Obligations.CfgsoWritesInputOffset : Prop :=
  ∀ (imm : Elem) (s : State),
    decode ((0x2 : BitVec 4) ++ (0 : BitVec 12) ++ imm) = .command (.cfgso imm) ∧
    (s.active = true → exec (.cfgso imm) s = .next (s.refusedWith 2)) ∧
    (s.active = false → exec (.cfgso imm) s = .next { s with soff := imm })

/-- R109: CFGTO's encoding, its refusal and the output offset it writes; everything else stays. -/
def Obligations.CfgtoWritesOutputOffset : Prop :=
  ∀ (imm : Elem) (s : State),
    decode ((0x3 : BitVec 4) ++ (0 : BitVec 12) ++ imm) = .command (.cfgto imm) ∧
    (s.active = true → exec (.cfgto imm) s = .next (s.refusedWith 2)) ∧
    (s.active = false → exec (.cfgto imm) s = .next { s with toff := imm })

/-- R110: GSTART's encoding, its three refusals in order, and the session it opens; OBUF, the error record, RVALID and the
configuration stay. Of the model's own marks it says nothing. -/
def Obligations.GstartOpensGenericSession : Prop :=
  ∀ (cap : Count) (s : State),
    let legal := 1 ≤ s.sw.toNat ∧ s.sw.toNat ≤ 16 ∧ 1 ≤ s.tw.toNat ∧ s.tw.toNat ≤ if s.oewsel = 0 then 8 else 16
    decode ((0x4 : BitVec 4) ++ cap) = .command (.gstart cap) ∧
    (s.active = true → exec (.gstart cap) s = .next (s.refusedWith 2)) ∧
    (s.active = false → ¬ legal → exec (.gstart cap) s = .next (s.refusedWith 4)) ∧
    (s.active = false → legal → s.depth.toNat < cap.toNat → exec (.gstart cap) s = .next (s.refusedWith 5)) ∧
    (s.active = false → legal → cap.toNat ≤ s.depth.toNat →
      ∃ t, exec (.gstart cap) s = .next t ∧
        t = { s with
          cap := cap, nlen := 0, mode := .gen, accRest := 0, accOff := 0, oidx := 0, icnt := 0,
          active := true, done := false,
          accAny := t.accAny, outAny := t.outAny, termWritten := t.termWritten, staleDraw := t.staleDraw })

/-- R140: ESTART's encoding, its two refusals in order, and the encode session it opens, with capacity
`floor((4n + 6) / 7) + 1`; OBUF, the error record, RESID and RVALID stay. Of the model's own marks it says nothing. -/
def Obligations.EstartOpensEncodeSession : Prop :=
  ∀ (n : Count) (s : State),
    let cap := (4 * n.toNat + 6) / 7 + 1
    decode ((0x5 : BitVec 4) ++ n) = .command (.estart n) ∧
    (s.active = true → exec (.estart n) s = .next (s.refusedWith 2)) ∧
    (s.active = false → s.depth.toNat < cap → exec (.estart n) s = .next (s.refusedWith 5)) ∧
    (s.active = false → cap ≤ s.depth.toNat →
      ∃ t, exec (.estart n) s = .next t ∧ t.cap.toNat = cap ∧
        t = { s with
          sw := 8, tw := 14, oewsel := 1, soff := 0x0000, toff := 0x4E00,
          cap := t.cap, nlen := n, mode := .enc, accRest := 0, accOff := 0, oidx := 0, icnt := 0,
          active := true, done := false,
          accAny := t.accAny, outAny := t.outAny, termWritten := t.termWritten, staleDraw := t.staleDraw })

/-- R150: DTERM's encoding, its refusal, and the residue it latches; everything else stays. -/
def Obligations.DtermLatchesResidue : Prop :=
  ∀ (t : Elem) (s : State),
    decode ((0x6 : BitVec 4) ++ (0 : BitVec 12) ++ t) = .command (.dterm t) ∧
    (s.active = true → exec (.dterm t) s = .next (s.refusedWith 2)) ∧
    (s.active = false → exec (.dterm t) s = .next { s with resid := t - 0x3D00, rvalid := true })

/-- R151: DSTART's encoding, its three refusals in order, and the decode session it opens, with the byte count
`N = floor((l - 1) / 4) * 7 + r` as capacity; OBUF and the error record stay. Of the model's own marks it says nothing. -/
def Obligations.DstartOpensDecodeSession : Prop :=
  ∀ (l : Count) (s : State),
    let r : Int := if s.resid = 0 then 7 else (s.resid.toNat : Int)
    let n : Int := Int.fdiv ((l.toNat : Int) - 1) 4 * 7 + r
    decode ((0x7 : BitVec 4) ++ l) = .command (.dstart l) ∧
    (s.active = true → exec (.dstart l) s = .next (s.refusedWith 2)) ∧
    (s.active = false → s.rvalid = false → exec (.dstart l) s = .next (s.refusedWith 6)) ∧
    (s.active = false → s.rvalid = true → (n < 0 ∨ (s.depth.toNat : Int) < n) →
      exec (.dstart l) s = .next (s.refusedWith 5)) ∧
    (s.active = false → s.rvalid = true → 0 ≤ n → n ≤ (s.depth.toNat : Int) →
      ∃ t, exec (.dstart l) s = .next t ∧ (t.cap.toNat : Int) = n ∧
        t = { s with
          sw := 14, tw := 8, oewsel := 0, soff := 0x4E00, toff := 0x0000,
          cap := t.cap, nlen := l, mode := .dec, accRest := 0, accOff := 0, oidx := 0, icnt := 0,
          active := true, done := false, rvalid := false,
          accAny := t.accAny, outAny := t.outAny, termWritten := t.termWritten, staleDraw := t.staleDraw })

/-- The model's own marks (log 4, 5, 6): a start command that is not refused starts a session with no bit of an out-of-range element
pending and no terminator written, draws stale entries anew, and leaves the outputs determined but for a decode whose residue is
above 6 or whose unit count is not ceil(4N / 7) for its byte count N = CAP (R152, conditions 1 and 2); ETERM records that it has written the terminator. No command but a start, PUSH and ETERM changes them. -/
def Obligations.SessionsStartDetermined : Prop :=
  (∀ (i : Instr) (s t : State), exec i s = .next t → s.active = false → t.active = true →
    t.accAny = false ∧ t.termWritten = false ∧ t.staleDraw = s.staleDraw + 1 ∧ t.draws = s.draws ∧
      (t.outAny = true ↔ ∃ l, i = .dstart l ∧ (6 < s.resid.toNat ∨ (4 * t.cap.toNat + 6) / 7 ≠ l.toNat))) ∧
  (∀ s t : State, exec .eterm s = .next t → t ≠ s.refusedWith 2 → t ≠ s.refusedWith 6 → t.termWritten = true) ∧
  (∀ (i : Instr) (s t : State), exec i s = .next t →
    ((t.accAny ≠ s.accAny ∨ t.outAny ≠ s.outAny) →
      match i with | .gstart _ | .estart _ | .dstart _ | .push _ => True | _ => False) ∧
    (t.termWritten ≠ s.termWritten →
      match i with | .gstart _ | .estart _ | .dstart _ | .eterm => True | _ => False) ∧
    (t.staleDraw ≠ s.staleDraw → match i with | .gstart _ | .estart _ | .dstart _ => True | _ => False))

/-- PUSH into a session whose buffer is full discards its element: its only effect is ICNT + 1 modulo 2^32. With no session open
it is refused with E_NOTACTIVE. -/
def Obligations.PushWhenFullOnlyCounts : Prop :=
  ∀ (x : Elem) (s : State),
    decode ((0x8 : BitVec 4) ++ (0 : BitVec 12) ++ x) = .command (.push x) ∧
    (s.active = false → exec (.push x) s = .next (s.refusedWith 3)) ∧
    (s.active = true → s.oidx = s.cap → exec (.push x) s = .next { s with icnt := s.icnt + 1 })

/-- PUSH with room in the buffer, for an element in range in a session whose outputs are determined, which in a decode session the
last unit's pad bits must not undo (R152, condition 4). The pending bits P and the element's SW bits v make the number
`A = P * 2^SW + v` of `len = ACC_OFF + SW` bits. The PUSH emits its groups of TW bits from the top, plus TOFF modulo 2^OEW, while
the buffer has room. If it fills, ACC_REST is 0 and ACC_OFF what is left of len; if not, the bits left over are pending at the top
of ACC_REST. Nothing else changes. Where a bit of an earlier out-of-range element is pending, it opens the first group alone, and
none is pending once a group has completed (log 5). -/
def Obligations.PushEmitsTheGroupsOfItsBits : Prop :=
  ∀ (x : Elem) (s : State), s.Inv → s.active = true → s.oidx ≠ s.cap →
    s.soff.toNat ≤ x.toNat → x.toNat < s.soff.toNat + 2 ^ s.sw.toNat →
    s.outAny = false →
    (s.mode = .dec → (s.icnt + 1).toNat = s.nlen.toNat →
      (x.toNat - 0x4E00) % 2 ^ (14 * s.nlen.toNat - 8 * s.cap.toNat) = 0) →
    let sw := s.sw.toNat
    let tw := s.tw.toNat
    let oew := if s.oewsel = 0 then 8 else 16
    let len := s.accOff.toNat + sw
    let bits := s.accRest.toNat / 2 ^ (tw - s.accOff.toNat) * 2 ^ sw + (x.toNat - s.soff.toNat)
    let room := s.cap.toNat - s.oidx.toNat
    let m := min (len / tw) room
    ∃ t, exec (.push x) s = .next t ∧
      t = { s with
        icnt := s.icnt + 1, oidx := t.oidx, obuf := t.obuf, accOff := t.accOff, accRest := t.accRest,
        accAny := t.accAny, draws := t.draws } ∧
      (t.accAny = true ↔ s.accAny = true ∧ len < tw) ∧
      (s.accAny = false → t.draws = s.draws) ∧
      t.oidx.toNat = s.oidx.toNat + m ∧
      (s.accAny = true → 0 < m → ∃ k, t.obuf.read s.oidx.toNat = some (Config.anyOutput k)) ∧
      (∀ j, j < m → (s.accAny = false ∨ 0 < j) → t.obuf.read (s.oidx.toNat + j) = some
        (BitVec.ofNat 16 ((bits / 2 ^ (len - (j + 1) * tw) % 2 ^ tw + s.toff.toNat) % 2 ^ oew))) ∧
      (∀ i, i < s.oidx.toNat ∨ s.oidx.toNat + m ≤ i → t.obuf.read i = s.obuf.read i) ∧
      (len / tw < room →
        t.accOff.toNat = len % tw ∧ t.accRest.toNat = bits % 2 ^ (len % tw) * 2 ^ (tw - len % tw)) ∧
      (room ≤ len / tw → t.accOff.toNat = len - room * tw ∧ t.accRest = 0)

/-- PUSH of any element with room in the buffer, in range or not: ICNT, OIDX, ACC_OFF and ACC_REST follow the rule with
`(x - SOFF) mod 2^SW` as the element's bits, every entry from OIDX on that it writes has content, and the rest of the state that
the host can read as registers stays. Every entry from CAP on stays, and every other entry too unless this PUSH is the one that
shows its decode session to lie outside the encoder image (log 6): the unit is outside 0x4E00..0x8DFF, or it is the last of NLEN and
a pad bit of it is 1 (R152, conditions 3 and 4). -/
def Obligations.PushRegistersFollowTheRuleForEveryElement : Prop :=
  ∀ (x : Elem) (s : State), s.Inv → s.active = true → s.oidx ≠ s.cap →
    let sw := s.sw.toNat
    let tw := s.tw.toNat
    let len := s.accOff.toNat + sw
    let v := (x.toNat + 2 ^ 16 - s.soff.toNat) % 2 ^ sw
    let bits := s.accRest.toNat / 2 ^ (tw - s.accOff.toNat) * 2 ^ sw + v
    let room := s.cap.toNat - s.oidx.toNat
    let m := min (len / tw) room
    let breaksImage := s.mode = .dec ∧ s.outAny = false ∧
      (¬ (0x4E00 ≤ x.toNat ∧ x.toNat ≤ 0x8DFF) ∨
        (s.icnt + 1).toNat = s.nlen.toNat ∧
          (x.toNat - 0x4E00) % 2 ^ (14 * s.nlen.toNat - 8 * s.cap.toNat) ≠ 0)
    ∃ t, exec (.push x) s = .next t ∧
      t = { s with
        icnt := s.icnt + 1, oidx := t.oidx, obuf := t.obuf, accOff := t.accOff, accRest := t.accRest,
        accAny := t.accAny, outAny := t.outAny, draws := t.draws } ∧
      t.oidx.toNat = s.oidx.toNat + m ∧
      (t.outAny = true ↔ s.outAny = true ∨ breaksImage) ∧
      (∀ j, j < m → ∃ e, t.obuf.read (s.oidx.toNat + j) = some e) ∧
      (¬ breaksImage →
        ∀ i, i < s.oidx.toNat ∨ s.oidx.toNat + m ≤ i → t.obuf.read i = s.obuf.read i) ∧
      (∀ i, s.cap.toNat ≤ i → t.obuf.read i = s.obuf.read i) ∧
      (len / tw < room →
        t.accOff.toNat = len % tw ∧ t.accRest.toNat = bits % 2 ^ (len % tw) * 2 ^ (tw - len % tw)) ∧
      (room ≤ len / tw → t.accOff.toNat = len - room * tw ∧ t.accRest = 0)

/-- Every output to which an out-of-range element contributes is a free value: each entry that its own PUSH writes, and the
entry of the group that its pending bits go into, written by a later PUSH or by FLUSH (the model's reading of R103 and U4, log 5
and 7). No bit of it is marked as pending when none is, or when the buffer is full. -/
def Obligations.OutOfRangeOutputsAreFree : Prop :=
  ∀ (x : Elem) (s : State), s.Inv → s.active = true → s.oidx ≠ s.cap → s.mode ≠ .dec →
    (¬ (s.soff.toNat ≤ x.toNat ∧ x.toNat < s.soff.toNat + 2 ^ s.sw.toNat) →
      ∃ t, exec (.push x) s = .next t ∧
        (∀ i, s.oidx.toNat ≤ i → i < t.oidx.toNat → ∃ k, t.obuf.read i = some (Config.anyOutput k)) ∧
        (t.accAny = true ↔ 0 < t.accOff.toNat ∧ t.oidx ≠ t.cap)) ∧
    (s.accAny = true →
      (∃ t, exec (.push x) s = .next t ∧
        (s.oidx.toNat < t.oidx.toNat → ∃ k, t.obuf.read s.oidx.toNat = some (Config.anyOutput k)) ∧
        (t.oidx = s.oidx → t.accAny = true)) ∧
      (0 < s.accOff.toNat →
        ∃ t k, exec .flush s = .next t ∧ t.obuf.read s.oidx.toNat = some (Config.anyOutput k)))

/-- A PUSH that shows its decode session to lie outside the encoder image, with a unit outside 0x4E00..0x8DFF or a last unit with a
pad bit that is 1 (R152, conditions 3 and 4), leaves every known entry below CAP at a free value, and so does every later PUSH of
the session and its FLUSH (the model's reading of R156 and U1, log 6). -/
def Obligations.DecodeOutsideTheImageIsFree : Prop :=
  ∀ (x : Elem) (s : State), s.Inv → s.active = true → s.oidx ≠ s.cap → s.mode = .dec →
    ((¬ (0x4E00 ≤ x.toNat ∧ x.toNat ≤ 0x8DFF) ∨
        (s.icnt + 1).toNat = s.nlen.toNat ∧
          (x.toNat - 0x4E00) % 2 ^ (14 * s.nlen.toNat - 8 * s.cap.toNat) ≠ 0) → s.outAny = false →
      ∃ t, exec (.push x) s = .next t ∧ t.outAny = true ∧
        ∀ i v, i < t.cap.toNat → t.obuf.read i = some v → ∃ k, v = Config.anyOutput k) ∧
    (s.outAny = true →
      ∃ t, exec (.push x) s = .next t ∧ t.outAny = true ∧
        ∀ i, s.oidx.toNat ≤ i → i < t.oidx.toNat → ∃ k, t.obuf.read i = some (Config.anyOutput k)) ∧
    (s.outAny = true → 0 < s.accOff.toNat →
      ∃ t k, exec .flush s = .next t ∧ t.obuf.read s.oidx.toNat = some (Config.anyOutput k))

/-- R112: FLUSH's word and its refusal; it emits ACC_REST plus TOFF modulo 2^OEW into entry OIDX when a bit is pending and the
buffer has room, and nothing otherwise; ACTIVE is 0 and DONE 1 after it, and nothing else changes. ACC_REST is below 2^TW, its
bits below the pending ones 0. What it emits where the spec leaves the output open is another statement's. -/
def Obligations.FlushEmitsThePendingBits : Prop :=
  decode 0x90000000 = .command .flush ∧
  ∀ s : State,
    (s.active = false → exec .flush s = .next (s.refusedWith 3)) ∧
    (s.active = true → (s.accOff = 0 ∨ s.cap.toNat ≤ s.oidx.toNat) →
      exec .flush s = .next { s with active := false, done := true }) ∧
    (s.active = true → s.accOff ≠ 0 → s.oidx.toNat < s.cap.toNat →
      ∃ t, exec .flush s = .next t ∧
        t = { s with active := false, done := true, oidx := t.oidx, obuf := t.obuf, draws := t.draws } ∧
        t.oidx.toNat = s.oidx.toNat + 1 ∧
        (∀ i, i ≠ s.oidx.toNat → t.obuf.read i = s.obuf.read i) ∧
        (s.accAny = false → s.outAny = false →
          t.draws = s.draws ∧
          t.obuf.read s.oidx.toNat = some
            (BitVec.ofNat 16 ((s.accRest.toNat + s.toff.toNat) % 2 ^ (if s.oewsel = 0 then 8 else 16))))) ∧
    (s.Inv → s.active = true → s.oidx.toNat < s.cap.toNat →
      s.accRest.toNat < 2 ^ s.tw.toNat ∧ s.accRest.toNat % 2 ^ (s.tw.toNat - s.accOff.toNat) = 0)

/-- R141: ETERM's word, its two refusals in order, and the terminator unit `(NLEN mod 7) + 0x3D00` it writes into entry CAP - 1;
no register changes and no other entry. CAP is at least 1 in an encode session, by the invariant (log 11). Of the model's own marks
it says nothing. -/
def Obligations.EtermWritesTheTerminator : Prop :=
  decode 0xA0000000 = .command .eterm ∧
  ∀ s : State,
    (s.active = true → exec .eterm s = .next (s.refusedWith 2)) ∧
    (s.active = false → (s.mode ≠ .enc ∨ s.done = false ∨ s.icnt.toNat ≠ s.nlen.toNat) →
      exec .eterm s = .next (s.refusedWith 6)) ∧
    (s.active = false → s.mode = .enc → s.done = true → s.icnt.toNat = s.nlen.toNat → 1 ≤ s.cap.toNat →
      ∃ t, exec .eterm s = .next t ∧
        t = { s with obuf := t.obuf, termWritten := t.termWritten } ∧
        t.obuf.read (s.cap.toNat - 1) = some (BitVec.ofNat 16 (s.nlen.toNat % 7 + 0x3D00)) ∧
        ∀ i, i ≠ s.cap.toNat - 1 → t.obuf.read i = s.obuf.read i) ∧
    (s.Inv → s.mode = .enc → 1 ≤ s.cap.toNat)

/-- R161: ABORT clears ACTIVE, DONE, MODE and RVALID, in every state, and changes nothing else; a word of its OP with any other bit
set is refused with E_ILLEGAL. -/
def Obligations.AbortAbandonsTheSession : Prop :=
  decode 0xB0000000 = .command .abort ∧
  (∀ s : State, exec .abort s = .next { s with active := false, done := false, mode := .none, rvalid := false }) ∧
  ∀ (s : State) (w : Word) (rest : List HostEvent), s.port = .command w :: rest →
    w.field 28 4 = 0xB → w.field 0 28 ≠ 0 → step s = .next (State.refusedWith 1 { s with port := rest })

/-- R162: CLRERR clears ERR and ECODE, in every state, and changes nothing else; a word of its OP with any other bit set is refused
with E_ILLEGAL, so it leaves ERR = 1. -/
def Obligations.ClrerrClearsTheErrorRecord : Prop :=
  decode 0xC0000000 = .command .clrerr ∧
  (∀ s : State, exec .clrerr s = .next { s with err := false, ecode := 0 }) ∧
  ∀ (s : State) (w : Word) (rest : List HostEvent), s.port = .command w :: rest →
    w.field 28 4 = 0xC → w.field 0 28 ≠ 0 → step s = .next (State.refusedWith 1 { s with port := rest })

/-! ## Rules of the whole machine -/

/-- A refused command has no effect but the record, whether or not an error is recorded already. Whether a command is refused does
not depend on the record, so it is told from the same state with the record clear, where a refusal shows as ERR = 1, with a cause
from 2 to 6. From the state itself the command then records that cause if ERR = 0, and leaves the whole state as it is if ERR = 1. A
command that is not refused does from the state itself what it does with the record clear, and keeps the record, CLRERR excepted. -/
def Obligations.RefusedCommandChangesOnlyTheRecord : Prop :=
  ∀ (i : Instr) (s t : State), exec i { s with err := false, ecode := 0 } = .next t →
    (t.err = true →
      2 ≤ t.ecode.toNat ∧ t.ecode.toNat ≤ 6 ∧
      (s.err = false → exec i s = .next { s with err := true, ecode := t.ecode }) ∧
      (s.err = true → exec i s = .next s)) ∧
    (t.err = false → i ≠ .clrerr → exec i s = .next { t with err := s.err, ecode := s.ecode })

/-- The first cause is kept: while ERR = 1, every command but CLRERR keeps ERR and ECODE. -/
def Obligations.FirstCauseIsKept : Prop :=
  ∀ (i : Instr) (s t : State), exec i s = .next t → s.err = true → i ≠ .clrerr → t.err = true ∧ t.ecode = s.ecode

/-- The configuration is frozen while a session is open: no command changes the widths, the offsets, the capacity, the declared
length or the residue of a state with ACTIVE = 1, and of the eight commands that would, each is refused with E_BUSY. -/
def Obligations.ConfigurationIsFrozenInASession : Prop :=
  (∀ (i : Instr) (s t : State), exec i s = .next t → s.active = true →
    t.sw = s.sw ∧ t.tw = s.tw ∧ t.oewsel = s.oewsel ∧ t.soff = s.soff ∧ t.toff = s.toff ∧ t.cap = s.cap ∧
      t.nlen = s.nlen ∧ t.resid = s.resid) ∧
  (∀ (s : State), s.active = true → ∀ (sw tw : Width) (o : BitVec 1) (e : Elem) (n : Count),
    ∀ i ∈ [Instr.cfgw sw tw o, .cfgso e, .cfgto e, .gstart n, .estart n, .dterm e, .dstart n, .eterm],
      exec i s = .next (s.refusedWith 2))

/-- Each register is written only by the commands that the summary table of 10_state.md names for it. -/
def Obligations.RegistersHaveOnlyTheirWriters : Prop :=
  ∀ (i : Instr) (s t : State), exec i s = .next t →
    ((t.sw ≠ s.sw ∨ t.tw ≠ s.tw ∨ t.oewsel ≠ s.oewsel) →
      match i with | .cfgw _ _ _ | .estart _ | .dstart _ => True | _ => False) ∧
    (t.soff ≠ s.soff → match i with | .cfgso _ | .estart _ | .dstart _ => True | _ => False) ∧
    (t.toff ≠ s.toff → match i with | .cfgto _ | .estart _ | .dstart _ => True | _ => False) ∧
    ((t.cap ≠ s.cap ∨ t.nlen ≠ s.nlen) → match i with | .gstart _ | .estart _ | .dstart _ => True | _ => False) ∧
    (t.resid ≠ s.resid → match i with | .dterm _ => True | _ => False) ∧
    ((t.accRest ≠ s.accRest ∨ t.accOff ≠ s.accOff ∨ t.icnt ≠ s.icnt) →
      match i with | .gstart _ | .estart _ | .dstart _ | .push _ => True | _ => False) ∧
    (t.oidx ≠ s.oidx →
      match i with | .gstart _ | .estart _ | .dstart _ | .push _ | .flush => True | _ => False) ∧
    (t.obuf ≠ s.obuf → match i with | .push _ | .flush | .eterm => True | _ => False) ∧
    (t.mode ≠ s.mode → match i with | .gstart _ | .estart _ | .dstart _ | .abort => True | _ => False) ∧
    (t.active ≠ s.active →
      match i with | .gstart _ | .estart _ | .dstart _ | .flush | .abort => True | _ => False) ∧
    (t.done ≠ s.done →
      match i with | .gstart _ | .estart _ | .dstart _ | .flush | .abort => True | _ => False) ∧
    t.depth = s.depth

/-- R29: DTERM sets RVALID when it is not refused; a DSTART that succeeds, ABORT and reset clear it; no other command changes it.
DSTART is refused with E_SEQ while RVALID = 0. -/
def Obligations.RvalidIsLatchedAndConsumed : Prop :=
  (∀ (i : Instr) (s t : State), exec i s = .next t →
    (∀ e, i = .dterm e → s.active = false → t.rvalid = true) ∧
    (∀ l, i = .dstart l → s.active = false → t.active = true → t.rvalid = false) ∧
    (i = .abort → t.rvalid = false) ∧
    (t.rvalid = true → s.rvalid = false → s.active = false ∧ ∃ e, i = .dterm e) ∧
    (t.rvalid = false → s.rvalid = true → (∃ l, i = .dstart l ∧ s.active = false ∧ t.active = true) ∨ i = .abort) ∧
    (∀ l, i = .dstart l → s.active = false → s.rvalid = false → t = s.refusedWith 6)) ∧
  (∀ (s t : State) (rest : List HostEvent), s.port = .reset :: rest → step s = .next t → t.rvalid = false)

/-- R42: DEPTH is a constant, OBUF_DEPTH after reset, read at address 0x0000_000B; no step changes it, a reset among them. -/
def Obligations.DepthNeverChanges : Prop :=
  State.reset.depth = Config.obufDepth ∧
  (∀ s : State, (s.readWord 0x0000000B).toNat = s.depth.toNat) ∧
  ∀ s t : State, step s = .next t → t.depth = s.depth

/-- Every write of the output buffer is at an index below CAP, so below OBUF_DEPTH: no command writes outside the buffer. -/
def Obligations.WritesStayBelowTheCapacity : Prop :=
  ∀ (i : Instr) (s t : State), s.Inv → exec i s = .next t →
    ∀ k, (t.cap.toNat ≤ k ∨ s.depth.toNat ≤ k) → t.obuf.read k = s.obuf.read k

/-- No register depends on the content of the output buffer or on a free value: two states that differ only in OBUF, the draw
counters and the host's last reply are taken by every command to states that differ only in these. -/
def Obligations.RegistersDoNotDependOnTheBuffer : Prop :=
  ∀ (i : Instr) (s : State) (m : Memory) (d e : Nat) (r : Option Word),
    ∃ t u, exec i s = .next t ∧
      exec i { s with obuf := m, draws := d, staleDraw := e, reply := r } = .next u ∧
      u = { t with obuf := u.obuf, draws := u.draws, staleDraw := u.staleDraw, reply := u.reply }

/-- R115: every command ends; each PUSH emits at most floor((TW - 1 + SW) / TW) entries, never more than 16, which SW = 16 and TW = 1
reach, and FLUSH at most one; no session passes its capacity, and the bit count inside PUSH never exceeds TW - 1 + SW, which is at
most 31. -/
def Obligations.EmitsAreBounded : Prop :=
  (∀ (i : Instr) (s : State), ∃ t, exec i s = .next t) ∧
  (∀ (x : Elem) (s : State), s.Inv → s.active = true →
    ∃ t, exec (.push x) s = .next t ∧ s.oidx.toNat ≤ t.oidx.toNat ∧ t.oidx.toNat ≤ t.cap.toNat ∧
      t.oidx.toNat - s.oidx.toNat ≤ (s.tw.toNat - 1 + s.sw.toNat) / s.tw.toNat ∧
      t.oidx.toNat - s.oidx.toNat ≤ 16 ∧
      (s.oidx ≠ s.cap → s.accOff.toNat + s.sw.toNat ≤ s.tw.toNat - 1 + s.sw.toNat) ∧
      s.tw.toNat - 1 + s.sw.toNat ≤ 31) ∧
  (∀ s : State, s.Inv → s.active = true →
    ∃ t, exec .flush s = .next t ∧ s.oidx.toNat ≤ t.oidx.toNat ∧ t.oidx.toNat ≤ s.oidx.toNat + 1 ∧
      t.oidx.toNat ≤ t.cap.toNat) ∧
  (∃ (x : Elem) (s t : State), s.Inv ∧ s.active = true ∧ s.sw = 16 ∧ s.tw = 1 ∧ exec (.push x) s = .next t ∧
    t.oidx.toNat = s.oidx.toNat + 16)

/-- The invariant of the block holds right after reset. -/
def Obligations.InvariantHoldsAtReset : Prop := State.reset.Inv

/-- Every step keeps the invariant: the error record, the session flags, the widths, the capacity chain, the accumulator, the
presets and the output buffer's form. What R37 says of the accumulator is said while a session is open (log 13). -/
def Obligations.InvariantIsKeptByEveryStep : Prop :=
  ∀ s t : State, s.Inv → step s = .next t → t.Inv

/-- Every step keeps the output buffer in the model's canonical form (log 2), from every state that has it, the invariant or not. -/
def Obligations.CanonicalBufferIsKeptByEveryStep : Prop :=
  ∀ s t : State, s.obuf.wf → step s = .next t → t.obuf.wf

/-! ## Laws of the core, the encoder and the decoder -/

/-- The bitstream law for a generic session: opened by GSTART from any state with no session open and legal widths, fed in-range
elements and flushed, it leaves OIDX = min(G, CAP) and the entries below it the groups of the bit stream plus TOFF modulo 2^OEW;
it writes no other entry and records no error. -/
def Obligations.GenericSessionFollowsTheBitstreamLaw : Prop :=
  ∀ (s : State) (cap : Count) (xs : List Elem),
    s.active = false → cfgLegal s.sw s.tw s.oewsel = true → cap.toNat ≤ s.depth.toNat →
    (∀ x ∈ xs, s.soff.toNat ≤ x.toNat ∧ x.toNat < s.soff.toNat + 2 ^ s.sw.toNat) →
    let out := realign s.sw s.tw s.oewsel s.soff s.toff cap.toNat xs
    ∃ t, runCommands (.gstart cap :: feed xs) s = .next t ∧
      t.oidx.toNat = out.length ∧
      (∀ k, k < out.length → t.obuf.read k = out[k]?) ∧
      (∀ k, out.length ≤ k → t.obuf.read k = s.obuf.read k) ∧
      t.err = s.err ∧ t.ecode = s.ecode ∧ t.active = false ∧ t.done = true ∧ t.mode = .gen

/-- R142: an ENCODE of bytes whose units fit the buffer, run from any state with no session open, raises no error and leaves the
source's `encode` of the bytes in entries 0 to CAP - 1, with CAP = ceil(4n / 7) + 1, DONE = 1 and MODE = ENC. -/
def Obligations.EncodeGivesTheSourcesUnits : Prop :=
  ∀ (s : State) (bytes : List Elem),
    s.active = false → bytes.length < 2 ^ 28 → encodeCapacity bytes.length ≤ s.depth.toNat →
    (∀ b ∈ bytes, b.toNat < 0x100) →
    ∃ t, runCommands (encodeCommands bytes) s = .next t ∧
      t.err = s.err ∧ t.ecode = s.ecode ∧
      t.cap.toNat = ceilDiv (4 * bytes.length) 7 + 1 ∧
      t.entries t.cap.toNat = encodeUnits bytes ∧
      t.active = false ∧ t.done = true ∧ t.mode = .enc

/-- R143: the data of an encode never reaches the terminator slot: with exactly n bytes pushed and flushed, OIDX = CAP - 1,
FULL = 0, and entry CAP - 1 holds what it held before the session. -/
def Obligations.EncodeDataStopsBelowTheTerminator : Prop :=
  ∀ (s : State) (bytes : List Elem),
    s.active = false → bytes.length < 2 ^ 28 → encodeCapacity bytes.length ≤ s.depth.toNat →
    (∀ b ∈ bytes, b.toNat < 0x100) →
    ∃ t, runCommands (.estart (BitVec.ofNat 28 bytes.length) :: feed bytes) s = .next t ∧
      t.oidx.toNat = t.cap.toNat - 1 ∧ 1 ≤ t.cap.toNat ∧ t.full = false ∧ t.icnt.toNat = bytes.length ∧
      t.obuf.read (t.cap.toNat - 1) = s.obuf.read (t.cap.toNat - 1)

/-- R144, R145: the source's `encode` of n bytes has ceil(4n / 7) + 1 units; every data unit lies in 0x4E00..0x8DFF and the last
unit, the terminator, in 0x3D00..0x3D06, which is disjoint; the last data unit's (14 - (8n mod 14)) mod 14 pad bits are 0. -/
def Obligations.EncodedUnitsHaveTheirRanges : Prop :=
  ∀ bytes : List Elem, (∀ b ∈ bytes, b.toNat < 0x100) →
    (encodeUnits bytes).length = ceilDiv (4 * bytes.length) 7 + 1 ∧
    (∀ u ∈ (encodeUnits bytes).dropLast, 0x4E00 ≤ u.toNat ∧ u.toNat ≤ 0x8DFF) ∧
    (∀ u, (encodeUnits bytes).getLast? = some u → 0x3D00 ≤ u.toNat ∧ u.toNat ≤ 0x3D06) ∧
    (∀ u, (encodeUnits bytes).dropLast.getLast? = some u →
      (u.toNat - 0x4E00) % 2 ^ ((14 - 8 * bytes.length % 14) % 14) = 0)

/-- R154: the byte count that DSTART computes from the terminator and the unit count of an encode of n bytes is n. -/
def Obligations.ByteCountOfAnEncodeIsItsLength : Prop :=
  ∀ n : Nat, decodeCount (residueOf (terminatorUnit n)) (ceilDiv (4 * n) 7) = (n : Int)

/-- A decode of units in the encoder image whose byte count fits the buffer, run from any state with no session open, raises no
error and leaves the source's `decode` of the units in entries 0 to N - 1, with CAP = OIDX = N. -/
def Obligations.DecodeGivesTheSourcesBytes : Prop :=
  ∀ (s : State) (units : List Elem) (term : Elem),
    s.active = false → units.length < 2 ^ 28 → inImage units term = true →
    unitsCount units term ≤ (s.depth.toNat : Int) →
    ∃ t, runCommands (decodeCommands units term) s = .next t ∧
      t.err = s.err ∧ t.ecode = s.ecode ∧
      (t.cap.toNat : Int) = unitsCount units term ∧ t.oidx = t.cap ∧
      t.entries t.cap.toNat = decodeBytes units term ∧
      t.active = false ∧ t.done = true ∧ t.mode = .dec

/-- The round trip: bytes whose units and whose bytes both fit the buffer, encoded, read back and decoded, give the same bytes.
-/
def Obligations.DecodeOfEncodeGivesTheBytes : Prop :=
  ∀ (s : State) (bytes : List Elem),
    s.active = false → bytes.length < 2 ^ 28 → encodeCapacity bytes.length ≤ s.depth.toNat →
    bytes.length ≤ s.depth.toNat → (∀ b ∈ bytes, b.toNat < 0x100) →
    ∃ t u, runCommands (encodeCommands bytes) s = .next t ∧
      runCommands
        (decodeCommands (t.entries (t.cap.toNat - 1)) (t.entry (t.cap.toNat - 1))) t = .next u ∧
      u.err = s.err ∧ u.entries bytes.length = bytes

/-- R116: for a preset session and an element in range, the source's unmasked emit `rest + (value >> off) + tOffset`, narrowed to the
output element, is the masked one, for each group that the element completes; under ENC an element completes at most one group,
and `rest + (value >> off)` is below 2^14; under DEC, OEW and TW are both 8. -/
def Obligations.PresetEmitsNeedNoMask : Prop :=
  ∀ (x : Elem) (s : State), s.Inv → s.active = true → s.oidx ≠ s.cap → (s.mode = .enc ∨ s.mode = .dec) →
    s.soff.toNat ≤ x.toNat → x.toNat < s.soff.toNat + 2 ^ s.sw.toNat →
    let tw := s.tw.toNat
    let oew := if s.oewsel = 0 then 8 else 16
    let len := s.accOff.toNat + s.sw.toNat
    ∀ j, (j + 1) * tw ≤ len →
      let rest := if j = 0 then s.accRest.toNat else 0
      let top := (x.toNat - s.soff.toNat) / 2 ^ (len - (j + 1) * tw)
      (rest + top + s.toff.toNat) % 2 ^ oew = ((rest + top) % 2 ^ tw + s.toff.toNat) % 2 ^ oew ∧
      (s.mode = .enc → j = 0 ∧ rest + top < 2 ^ 14) ∧ (s.mode = .dec → oew = 8 ∧ tw = 8)

/-- How a decode in the encoder image fills its buffer: before the last unit OIDX is below CAP, the last PUSH fills the buffer, and
FLUSH then only ends the session; with no unit CAP is 0 and nothing is written. -/
def Obligations.DecodeFillsItsBufferAtTheLastUnit : Prop :=
  ∀ (s : State) (units : List Elem) (term : Elem),
    s.active = false → units.length < 2 ^ 28 → inImage units term = true →
    unitsCount units term ≤ (s.depth.toNat : Int) →
    let start := [Instr.dterm term, .dstart (BitVec.ofNat 28 units.length)]
    (∀ k, k < units.length →
      ∃ t, runCommands (start ++ (units.take k).map .push) s = .next t ∧ t.oidx.toNat < t.cap.toNat) ∧
    ∃ t, runCommands (start ++ units.map .push) s = .next t ∧ t.oidx = t.cap ∧
      (∀ k, t.cap.toNat ≤ k → t.obuf.read k = s.obuf.read k) ∧
      (units = [] → t.cap = 0) ∧
      exec .flush t = .next { t with active := false, done := true }

/-- The results of the three kinds of sessions, run from any launch state: the groups of the bit stream, the source's `encode`, and
the source's `decode` of units in the encoder image. -/
def Obligations.SessionResultsAreTheSources : Prop :=
  ∀ s : State, s.Launchable →
    (∀ (cap : Count) (xs : List Elem), cfgLegal s.sw s.tw s.oewsel = true → cap.toNat ≤ s.depth.toNat →
      (∀ x ∈ xs, s.soff.toNat ≤ x.toNat ∧ x.toNat < s.soff.toNat + 2 ^ s.sw.toNat) →
      ∃ t, runCommands (.gstart cap :: feed xs) s = .next t ∧
        t.result = some (realign s.sw s.tw s.oewsel s.soff s.toff cap.toNat xs)) ∧
    (∀ bytes : List Elem, bytes.length < 2 ^ 28 → encodeCapacity bytes.length ≤ s.depth.toNat →
      (∀ b ∈ bytes, b.toNat < 0x100) →
      ∃ t, runCommands (encodeCommands bytes) s = .next t ∧ t.result = some (encodeUnits bytes)) ∧
    (∀ (units : List Elem) (term : Elem), units.length < 2 ^ 28 → inImage units term = true →
      unitsCount units term ≤ (s.depth.toNat : Int) →
      ∃ t, runCommands (decodeCommands units term) s = .next t ∧ t.result = some (decodeBytes units term))

/-- A decode of units outside the encoder image, run from any state with no session open: where the byte count N is negative or above
DEPTH, DSTART is refused with E_CAP; otherwise no error is raised, the session ends, and every entry below CAP = N that the host
reads is a free value, whether or not the session wrote it (the model's reading of R156 and U1, log 6). The four conditions of R152
are written out: the terminator's range, the unit count, the units' range, and the pad bits of the last unit. -/
def Obligations.DecodeSessionOutsideTheImageIsFree : Prop :=
  ∀ (s : State) (units : List Elem) (term : Elem),
    s.active = false → units.length < 2 ^ 28 →
    let l : Int := units.length
    let r : Int := if term = 0x3D00 then 7 else ((term - 0x3D00 : Elem).toNat : Int)
    let n : Int := Int.fdiv (l - 1) 4 * 7 + r
    (¬ (0x3D00 ≤ term.toNat ∧ term.toNat ≤ 0x3D06) ∨ n < 0 ∨ Int.fdiv (4 * n + 6) 7 ≠ l ∨
      (∃ u ∈ units, ¬ (0x4E00 ≤ u.toNat ∧ u.toNat ≤ 0x8DFF)) ∨
      (∃ u, units.getLast? = some u ∧ (u.toNat - 0x4E00) % 2 ^ (14 * l - 8 * n).toNat ≠ 0)) →
    ((n < 0 ∨ (s.depth.toNat : Int) < n) →
      runCommands [.dterm term, .dstart (BitVec.ofNat 28 units.length)] s =
        .next (State.refusedWith 5 { s with resid := term - 0x3D00, rvalid := true })) ∧
    (0 ≤ n → n ≤ (s.depth.toNat : Int) →
      ∃ t, runCommands (decodeCommands units term) s = .next t ∧
        (t.cap.toNat : Int) = n ∧ t.err = s.err ∧ t.ecode = s.ecode ∧
        t.active = false ∧ t.done = true ∧ t.mode = .dec ∧
        ∀ i, i < t.cap.toNat →
          (i < t.oidx.toNat → ∃ k, t.entry i = Config.anyOutput k) ∧
          (t.oidx.toNat ≤ i → t.entry i = Config.staleEntry t.staleDraw i))

/-- The encoder image is what the encoder produces: the units and the terminator of an encode are in the image, and decode to the
bytes encoded; units and a terminator in the image are the encode of the bytes they decode to. -/
def Obligations.ImageIsWhatTheEncoderProduces : Prop :=
  (∀ (bytes units : List Elem) (term : Elem), (∀ b ∈ bytes, b.toNat < 0x100) → encodeUnits bytes = units ++ [term] →
    inImage units term = true ∧ decodeBytes units term = bytes) ∧
  (∀ (units : List Elem) (term : Elem), inImage units term = true →
    (∀ b ∈ decodeBytes units term, b.toNat < 0x100) ∧
    encodeUnits (decodeBytes units term) = units ++ [term])
end

