-- ==== Sys2Proof/Laws/Decode.lean ====
section
/-! SUPPORT. Words as numbers: a field is a quotient and a remainder, and each format's word is a sum of its fields (R82 to R85).
From these the fields of an encoded word follow by linear arithmetic. -/

namespace Sys2Proof

/-- `w[lo + len - 1 : lo]` as a number (R7). -/
theorem Word.field_toNat (w : Word) (lo len : Nat) : (w.field lo len).toNat = w.toNat / 2 ^ lo % 2 ^ len := by
  simp [Word.field, Nat.shiftRight_eq_div_pow]

theorem toNat_append_sum {n m : Nat} (x : BitVec n) (y : BitVec m) :
    (x ++ y).toNat = x.toNat * 2 ^ m + y.toNat := by
  rw [BitVec.toNat_append, Nat.shiftLeft_eq, Nat.mul_comm, Nat.two_pow_add_eq_or_of_lt y.isLt]

theorem encodeN_toNat (op : BitVec 4) : (encodeN op).toNat = op.toNat * 2 ^ 28 := by
  rw [encodeN, toNat_append_sum]; simp

theorem encodeH_toNat (op : BitVec 4) (imm : Elem) : (encodeH op imm).toNat = op.toNat * 2 ^ 28 + imm.toNat := by
  rw [encodeH, toNat_append_sum, toNat_append_sum]; simp; omega

theorem encodeL_toNat (op : BitVec 4) (imm : Count) : (encodeL op imm).toNat = op.toNat * 2 ^ 28 + imm.toNat := by
  rw [encodeL, toNat_append_sum]

theorem encodeW_toNat (sw tw : Width) (o : BitVec 1) :
    (encodeW sw tw o).toNat = 2 ^ 28 + o.toNat * 2 ^ 16 + tw.toNat * 2 ^ 8 + sw.toNat := by
  simp only [encodeW, toNat_append_sum]; simp; omega

/-- Two fields are equal when the numbers are. -/
theorem field_eq_iff {n : Nat} (w : Word) (lo : Nat) (x : BitVec n) :
    w.field lo n = x ↔ w.toNat / 2 ^ lo % 2 ^ n = x.toNat := by
  rw [← Word.field_toNat]; exact ⟨fun h => by rw [h], fun h => BitVec.eq_of_toNat_eq h⟩

theorem encodeN_op (op : BitVec 4) : (encodeN op).field 28 4 = op := by
  rw [field_eq_iff, encodeN_toNat]; have := op.isLt; omega

theorem encodeN_reserved (op : BitVec 4) : (encodeN op).field 0 28 = 0 := by
  rw [field_eq_iff, encodeN_toNat]; simp

theorem encodeH_op (op : BitVec 4) (imm : Elem) : (encodeH op imm).field 28 4 = op := by
  rw [field_eq_iff, encodeH_toNat]; have := op.isLt; have := imm.isLt; omega

theorem encodeH_reserved (op : BitVec 4) (imm : Elem) : (encodeH op imm).field 16 12 = 0 := by
  rw [field_eq_iff, encodeH_toNat]; have := imm.isLt; simp; omega

theorem encodeH_imm (op : BitVec 4) (imm : Elem) : (encodeH op imm).field 0 16 = imm := by
  rw [field_eq_iff, encodeH_toNat]; have := imm.isLt; omega

theorem encodeL_op (op : BitVec 4) (imm : Count) : (encodeL op imm).field 28 4 = op := by
  rw [field_eq_iff, encodeL_toNat]; have := op.isLt; have := imm.isLt; omega

theorem encodeL_imm (op : BitVec 4) (imm : Count) : (encodeL op imm).field 0 28 = imm := by
  rw [field_eq_iff, encodeL_toNat]; have := imm.isLt; omega

section
variable (sw tw : Width) (o : BitVec 1)

theorem encodeW_op : (encodeW sw tw o).field 28 4 = 0x1 := by
  rw [field_eq_iff, encodeW_toNat]; have := sw.isLt; have := tw.isLt; have := o.isLt; simp; omega

theorem encodeW_reserved : (encodeW sw tw o).field 17 11 = 0 ∧ (encodeW sw tw o).field 13 3 = 0 ∧
    (encodeW sw tw o).field 5 3 = 0 := by
  simp only [field_eq_iff, encodeW_toNat]; have := sw.isLt; have := tw.isLt; have := o.isLt; simp; omega

theorem encodeW_fields : (encodeW sw tw o).field 0 5 = sw ∧ (encodeW sw tw o).field 8 5 = tw ∧
    (encodeW sw tw o).field 16 1 = o := by
  simp only [field_eq_iff, encodeW_toNat]; have := sw.isLt; have := tw.isLt; have := o.isLt; omega

end

end Sys2Proof
end

