-- ==== Sys2Proof/Laws/Groups.lean ====
section
/-! SUPPORT. The groups and the fold of PUSH as parts of one number: the pending bits followed by the element's bits (R39, R105,
R111, R113). -/

namespace Sys2Proof.Machine

/-- The pending bits of an accumulator of `a` bits, followed by an element's bits. -/
def pendingBits (tw a sw rest value : Nat) : Nat := rest / 2 ^ (tw - a) * 2 ^ sw + value

section
variable {tw a sw rest value : Nat}

theorem rest_eq_pending (hlow : rest % 2 ^ (tw - a) = 0) : rest / 2 ^ (tw - a) * 2 ^ (tw - a) = rest :=
  Nat.div_mul_cancel (Nat.dvd_of_mod_eq_zero hlow)

/-- Fewer than `a` bits are pending, so the number has `a + sw` bits. -/
theorem pendingBits_lt (ha : a ≤ tw) (hrest : rest < 2 ^ tw) (hv : value < 2 ^ sw) :
    pendingBits tw a sw rest value < 2 ^ (a + sw) := by
  have hp : rest / 2 ^ (tw - a) < 2 ^ a := by
    rw [Nat.div_lt_iff_lt_mul (Nat.two_pow_pos _), ← pow_add, Nat.add_sub_cancel' ha]; exact hrest
  calc pendingBits tw a sw rest value
      < rest / 2 ^ (tw - a) * 2 ^ sw + 2 ^ sw := by simpa [pendingBits] using hv
    _ = (rest / 2 ^ (tw - a) + 1) * 2 ^ sw := by ring
    _ ≤ 2 ^ a * 2 ^ sw := Nat.mul_le_mul_right _ hp
    _ = 2 ^ (a + sw) := (pow_add 2 a sw).symm

/-- Dropping `r` low bits of the number drops them of the element and shifts the pending bits down. -/
theorem pendingBits_div {r : Nat} (hr : r ≤ sw) :
    pendingBits tw a sw rest value / 2 ^ r = rest / 2 ^ (tw - a) * 2 ^ (sw - r) + value / 2 ^ r := by
  have hsplit : 2 ^ sw = 2 ^ (sw - r) * 2 ^ r := by rw [← pow_add, Nat.sub_add_cancel hr]
  rw [pendingBits, hsplit, ← Nat.mul_assoc, Nat.add_comm, Nat.add_mul_div_right _ _ (Nat.two_pow_pos r), Nat.add_comm]

/-- The first group: the pending bits and the top of the element. -/
theorem firstGroup_eq (ha : a < tw) (hlen : tw ≤ a + sw) (hlow : rest % 2 ^ (tw - a) = 0) :
    groupValue tw rest value (a + sw - tw) = pendingBits tw a sw rest value / 2 ^ (a + sw - tw) % 2 ^ tw := by
  rw [pendingBits_div (by omega), groupValue, show sw - (a + sw - tw) = tw - a by omega, rest_eq_pending hlow]

/-- A later group: bits of the element alone. -/
theorem laterGroup_eq {j : Nat} (ha : a < tw) (hj : 1 ≤ j) (hlen : (j + 1) * tw ≤ a + sw) :
    groupValue tw 0 value (a + sw - (j + 1) * tw) =
      pendingBits tw a sw rest value / 2 ^ (a + sw - (j + 1) * tw) % 2 ^ tw := by
  have h2 : 2 * tw ≤ (j + 1) * tw := Nat.mul_le_mul_right _ (by omega)
  have hle : a + sw - (j + 1) * tw ≤ sw := by omega
  have htw : tw ≤ sw - (a + sw - (j + 1) * tw) := by omega
  obtain ⟨d, hd⟩ : ∃ d, sw - (a + sw - (j + 1) * tw) = d + tw := ⟨_, (Nat.sub_add_cancel htw).symm⟩
  rw [pendingBits_div hle, hd, groupValue, Nat.zero_add, pow_add, ← Nat.mul_assoc,
    Nat.mul_add_mod_self_right]

/-- The fold when the element completed no group: all the bits are pending. -/
theorem foldRest_short (ha : a ≤ tw) (hlen : a + sw < tw) (hrest : rest < 2 ^ tw) (hlow : rest % 2 ^ (tw - a) = 0)
    (hv : value < 2 ^ sw) :
    foldRest tw rest value (a + sw) =
      pendingBits tw a sw rest value % 2 ^ (a + sw) * 2 ^ (tw - (a + sw)) := by
  have hfit : value * 2 ^ (tw - (a + sw)) < 2 ^ tw := by
    calc value * 2 ^ (tw - (a + sw)) < 2 ^ sw * 2 ^ (tw - (a + sw)) :=
          Nat.mul_lt_mul_of_pos_right hv (Nat.two_pow_pos _)
      _ = 2 ^ (sw + (tw - (a + sw))) := (pow_add 2 _ _).symm
      _ ≤ 2 ^ tw := Nat.pow_le_pow_right (by norm_num) (by omega)
  rw [Nat.mod_eq_of_lt (pendingBits_lt ha hrest hv), foldRest, Nat.mod_eq_of_lt hfit, pendingBits, Nat.add_mul,
    Nat.mul_assoc, ← pow_add, show sw + (tw - (a + sw)) = tw - a by omega, rest_eq_pending hlow]

/-- The fold after a group: the low `off` bits of the element are pending. -/
theorem foldRest_long {off : Nat} (hoff : off ≤ tw) (hsw : off ≤ sw) :
    foldRest tw 0 value off = pendingBits tw a sw rest value % 2 ^ off * 2 ^ (tw - off) := by
  obtain ⟨d, rfl⟩ : ∃ d, sw = d + off := ⟨sw - off, (Nat.sub_add_cancel hsw).symm⟩
  have hmod : pendingBits tw a (d + off) rest value % 2 ^ off = value % 2 ^ off := by
    rw [pendingBits, pow_add, ← Nat.mul_assoc, Nat.add_comm, Nat.add_mul_mod_self_right]
  have htw : 2 ^ tw = 2 ^ off * 2 ^ (tw - off) := by rw [← pow_add, Nat.add_sub_cancel' hoff]
  rw [hmod, foldRest, Nat.zero_add, htw, Nat.mul_mod_mul_right]

end

end Sys2Proof.Machine
end

