-- ==== Sys2Proof/Laws/Memory.lean ====
section
/-! SUPPORT. OBUF: what a write and a redraw do to each entry, and that every operation keeps the canonical form. -/

namespace Sys2Proof.Machine

/-- An entry reads as the value last written to it, and a write leaves every other entry alone (R63). -/
theorem Memory.read_write (m : Memory) (i k : Nat) (v : Elem) :
    (m.write i v).read k = if k = i then some v else m.read k := by
  induction m with
  | nil => simp [Memory.write, Memory.read]
  | cons e m ih =>
    obtain ⟨j, u⟩ := e
    simp only [Memory.write]
    split
    · simp [Memory.read]
    · split
      · rename_i h; subst h; simp only [Memory.read]; split <;> rfl
      · rename_i h
        simp only [Memory.read, ih]
        grind

@[simp] theorem Memory.read_write_same (m : Memory) (i : Nat) (v : Elem) : (m.write i v).read i = some v := by
  simp [Memory.read_write]

theorem Memory.read_write_other (m : Memory) {i k : Nat} (v : Elem) (h : k ≠ i) :
    (m.write i v).read k = m.read k := by
  simp [Memory.read_write, h]

/-- A redraw gives a known entry below n a free value and leaves every other entry alone. -/
theorem Memory.read_redraw (m : Memory) (d n k : Nat) :
    (m.redraw d n).read k =
      if k < n then (m.read k).map fun _ => Config.anyOutput (d + k) else m.read k := by
  induction m with
  | nil => simp [Memory.redraw, Memory.read]
  | cons e m ih =>
    obtain ⟨j, u⟩ := e
    have hcons : Memory.redraw d n ((j, u) :: m) =
        (j, if j < n then Config.anyOutput (d + j) else u) :: Memory.redraw d n m := by
      simp only [Memory.redraw, List.map_cons]; split <;> rfl
    rw [hcons]
    simp only [Memory.read, ih]
    by_cases hk : k = j
    · subst hk; simp only [if_true]; split <;> simp
    · simp [hk]

theorem Memory.mem_write {m : Memory} {i : Nat} {v : Elem} {e : Nat × Elem} (h : e ∈ m.write i v) :
    e = (i, v) ∨ e ∈ m := by
  induction m with
  | nil => simpa [Memory.write] using h
  | cons a m ih =>
    obtain ⟨j, u⟩ := a
    simp only [Memory.write] at h
    split at h <;> [skip; split at h] <;> simp only [List.mem_cons] at h ⊢ <;> grind

theorem Memory.write_wf {m : Memory} (h : m.wf) (i : Nat) (v : Elem) : (m.write i v).wf := by
  induction m with
  | nil => simp [Memory.write]
  | cons a m ih =>
    obtain ⟨j, u⟩ := a
    obtain ⟨hj, hm⟩ := List.pairwise_cons.mp h
    simp only [Memory.write]
    split
    · rename_i hij
      refine List.pairwise_cons.mpr ⟨fun e he => ?_, h⟩
      rcases List.mem_cons.mp he with rfl | he
      · exact hij
      · exact lt_trans hij (hj e he)
    · split
      · rename_i hij; subst hij; exact List.pairwise_cons.mpr ⟨hj, hm⟩
      · refine List.pairwise_cons.mpr ⟨fun e he => ?_, ih hm⟩
        rcases Memory.mem_write he with rfl | he
        · simp only; omega
        · exact hj e he

theorem Memory.redraw_wf {m : Memory} (h : m.wf) (d n : Nat) : (m.redraw d n).wf := by
  have fst : ∀ e : Nat × Elem, (if e.1 < n then (e.1, Config.anyOutput (d + e.1)) else e).1 = e.1 := by
    intro e; split <;> rfl
  simpa [Memory.wf, Memory.redraw, List.pairwise_map, fst] using h

theorem State.reset_obuf_wf : State.reset.obuf.wf := by simp [State.reset, State.resetAt]

end Sys2Proof.Machine
end

