-- ==== Sys2Proof/Laws/State.lean ====
section
/-! SUPPORT. One lemma per field per update of the state, each true by rfl. -/

namespace Sys2Proof.Machine

variable (s : State) (cause : Cause) (w v : Width) (b : BitVec 1) (x y : Elem) (md : Mode) (cp n : Count)
  (i g r : Nat) (a : Bool) (addr : Word)

/-! ### `raise` -/

@[simp] theorem State.raise_active : (s.raise cause).active = s.active := rfl
@[simp] theorem State.raise_done : (s.raise cause).done = s.done := rfl
@[simp] theorem State.raise_err : (s.raise cause).err = true := rfl
@[simp] theorem State.raise_ecode : (s.raise cause).ecode = if s.err then s.ecode else cause.code := rfl
@[simp] theorem State.raise_mode : (s.raise cause).mode = s.mode := rfl
@[simp] theorem State.raise_rvalid : (s.raise cause).rvalid = s.rvalid := rfl
@[simp] theorem State.raise_sw : (s.raise cause).sw = s.sw := rfl
@[simp] theorem State.raise_tw : (s.raise cause).tw = s.tw := rfl
@[simp] theorem State.raise_oewsel : (s.raise cause).oewsel = s.oewsel := rfl
@[simp] theorem State.raise_soff : (s.raise cause).soff = s.soff := rfl
@[simp] theorem State.raise_toff : (s.raise cause).toff = s.toff := rfl
@[simp] theorem State.raise_cap : (s.raise cause).cap = s.cap := rfl
@[simp] theorem State.raise_nlen : (s.raise cause).nlen = s.nlen := rfl
@[simp] theorem State.raise_resid : (s.raise cause).resid = s.resid := rfl
@[simp] theorem State.raise_accRest : (s.raise cause).accRest = s.accRest := rfl
@[simp] theorem State.raise_accOff : (s.raise cause).accOff = s.accOff := rfl
@[simp] theorem State.raise_oidx : (s.raise cause).oidx = s.oidx := rfl
@[simp] theorem State.raise_icnt : (s.raise cause).icnt = s.icnt := rfl
@[simp] theorem State.raise_depth : (s.raise cause).depth = s.depth := rfl
@[simp] theorem State.raise_obuf : (s.raise cause).obuf = s.obuf := rfl
@[simp] theorem State.raise_accAny : (s.raise cause).accAny = s.accAny := rfl
@[simp] theorem State.raise_outAny : (s.raise cause).outAny = s.outAny := rfl
@[simp] theorem State.raise_termWritten : (s.raise cause).termWritten = s.termWritten := rfl
@[simp] theorem State.raise_draws : (s.raise cause).draws = s.draws := rfl
@[simp] theorem State.raise_staleDraw : (s.raise cause).staleDraw = s.staleDraw := rfl
@[simp] theorem State.raise_port : (s.raise cause).port = s.port := rfl
@[simp] theorem State.raise_reply : (s.raise cause).reply = s.reply := rfl

/-! ### `clearError` -/

@[simp] theorem State.clearError_active : (s.clearError).active = s.active := rfl
@[simp] theorem State.clearError_done : (s.clearError).done = s.done := rfl
@[simp] theorem State.clearError_err : (s.clearError).err = false := rfl
@[simp] theorem State.clearError_ecode : (s.clearError).ecode = 0 := rfl
@[simp] theorem State.clearError_mode : (s.clearError).mode = s.mode := rfl
@[simp] theorem State.clearError_rvalid : (s.clearError).rvalid = s.rvalid := rfl
@[simp] theorem State.clearError_sw : (s.clearError).sw = s.sw := rfl
@[simp] theorem State.clearError_tw : (s.clearError).tw = s.tw := rfl
@[simp] theorem State.clearError_oewsel : (s.clearError).oewsel = s.oewsel := rfl
@[simp] theorem State.clearError_soff : (s.clearError).soff = s.soff := rfl
@[simp] theorem State.clearError_toff : (s.clearError).toff = s.toff := rfl
@[simp] theorem State.clearError_cap : (s.clearError).cap = s.cap := rfl
@[simp] theorem State.clearError_nlen : (s.clearError).nlen = s.nlen := rfl
@[simp] theorem State.clearError_resid : (s.clearError).resid = s.resid := rfl
@[simp] theorem State.clearError_accRest : (s.clearError).accRest = s.accRest := rfl
@[simp] theorem State.clearError_accOff : (s.clearError).accOff = s.accOff := rfl
@[simp] theorem State.clearError_oidx : (s.clearError).oidx = s.oidx := rfl
@[simp] theorem State.clearError_icnt : (s.clearError).icnt = s.icnt := rfl
@[simp] theorem State.clearError_depth : (s.clearError).depth = s.depth := rfl
@[simp] theorem State.clearError_obuf : (s.clearError).obuf = s.obuf := rfl
@[simp] theorem State.clearError_accAny : (s.clearError).accAny = s.accAny := rfl
@[simp] theorem State.clearError_outAny : (s.clearError).outAny = s.outAny := rfl
@[simp] theorem State.clearError_termWritten : (s.clearError).termWritten = s.termWritten := rfl
@[simp] theorem State.clearError_draws : (s.clearError).draws = s.draws := rfl
@[simp] theorem State.clearError_staleDraw : (s.clearError).staleDraw = s.staleDraw := rfl
@[simp] theorem State.clearError_port : (s.clearError).port = s.port := rfl
@[simp] theorem State.clearError_reply : (s.clearError).reply = s.reply := rfl

/-! ### `setWidths` -/

@[simp] theorem State.setWidths_active : (s.setWidths w v b).active = s.active := rfl
@[simp] theorem State.setWidths_done : (s.setWidths w v b).done = s.done := rfl
@[simp] theorem State.setWidths_err : (s.setWidths w v b).err = s.err := rfl
@[simp] theorem State.setWidths_ecode : (s.setWidths w v b).ecode = s.ecode := rfl
@[simp] theorem State.setWidths_mode : (s.setWidths w v b).mode = s.mode := rfl
@[simp] theorem State.setWidths_rvalid : (s.setWidths w v b).rvalid = s.rvalid := rfl
@[simp] theorem State.setWidths_sw : (s.setWidths w v b).sw = w := rfl
@[simp] theorem State.setWidths_tw : (s.setWidths w v b).tw = v := rfl
@[simp] theorem State.setWidths_oewsel : (s.setWidths w v b).oewsel = b := rfl
@[simp] theorem State.setWidths_soff : (s.setWidths w v b).soff = s.soff := rfl
@[simp] theorem State.setWidths_toff : (s.setWidths w v b).toff = s.toff := rfl
@[simp] theorem State.setWidths_cap : (s.setWidths w v b).cap = s.cap := rfl
@[simp] theorem State.setWidths_nlen : (s.setWidths w v b).nlen = s.nlen := rfl
@[simp] theorem State.setWidths_resid : (s.setWidths w v b).resid = s.resid := rfl
@[simp] theorem State.setWidths_accRest : (s.setWidths w v b).accRest = s.accRest := rfl
@[simp] theorem State.setWidths_accOff : (s.setWidths w v b).accOff = s.accOff := rfl
@[simp] theorem State.setWidths_oidx : (s.setWidths w v b).oidx = s.oidx := rfl
@[simp] theorem State.setWidths_icnt : (s.setWidths w v b).icnt = s.icnt := rfl
@[simp] theorem State.setWidths_depth : (s.setWidths w v b).depth = s.depth := rfl
@[simp] theorem State.setWidths_obuf : (s.setWidths w v b).obuf = s.obuf := rfl
@[simp] theorem State.setWidths_accAny : (s.setWidths w v b).accAny = s.accAny := rfl
@[simp] theorem State.setWidths_outAny : (s.setWidths w v b).outAny = s.outAny := rfl
@[simp] theorem State.setWidths_termWritten : (s.setWidths w v b).termWritten = s.termWritten := rfl
@[simp] theorem State.setWidths_draws : (s.setWidths w v b).draws = s.draws := rfl
@[simp] theorem State.setWidths_staleDraw : (s.setWidths w v b).staleDraw = s.staleDraw := rfl
@[simp] theorem State.setWidths_port : (s.setWidths w v b).port = s.port := rfl
@[simp] theorem State.setWidths_reply : (s.setWidths w v b).reply = s.reply := rfl

/-! ### `loadPreset` -/

@[simp] theorem State.loadPreset_active : (s.loadPreset w v b x y).active = s.active := rfl
@[simp] theorem State.loadPreset_done : (s.loadPreset w v b x y).done = s.done := rfl
@[simp] theorem State.loadPreset_err : (s.loadPreset w v b x y).err = s.err := rfl
@[simp] theorem State.loadPreset_ecode : (s.loadPreset w v b x y).ecode = s.ecode := rfl
@[simp] theorem State.loadPreset_mode : (s.loadPreset w v b x y).mode = s.mode := rfl
@[simp] theorem State.loadPreset_rvalid : (s.loadPreset w v b x y).rvalid = s.rvalid := rfl
@[simp] theorem State.loadPreset_sw : (s.loadPreset w v b x y).sw = w := rfl
@[simp] theorem State.loadPreset_tw : (s.loadPreset w v b x y).tw = v := rfl
@[simp] theorem State.loadPreset_oewsel : (s.loadPreset w v b x y).oewsel = b := rfl
@[simp] theorem State.loadPreset_soff : (s.loadPreset w v b x y).soff = x := rfl
@[simp] theorem State.loadPreset_toff : (s.loadPreset w v b x y).toff = y := rfl
@[simp] theorem State.loadPreset_cap : (s.loadPreset w v b x y).cap = s.cap := rfl
@[simp] theorem State.loadPreset_nlen : (s.loadPreset w v b x y).nlen = s.nlen := rfl
@[simp] theorem State.loadPreset_resid : (s.loadPreset w v b x y).resid = s.resid := rfl
@[simp] theorem State.loadPreset_accRest : (s.loadPreset w v b x y).accRest = s.accRest := rfl
@[simp] theorem State.loadPreset_accOff : (s.loadPreset w v b x y).accOff = s.accOff := rfl
@[simp] theorem State.loadPreset_oidx : (s.loadPreset w v b x y).oidx = s.oidx := rfl
@[simp] theorem State.loadPreset_icnt : (s.loadPreset w v b x y).icnt = s.icnt := rfl
@[simp] theorem State.loadPreset_depth : (s.loadPreset w v b x y).depth = s.depth := rfl
@[simp] theorem State.loadPreset_obuf : (s.loadPreset w v b x y).obuf = s.obuf := rfl
@[simp] theorem State.loadPreset_accAny : (s.loadPreset w v b x y).accAny = s.accAny := rfl
@[simp] theorem State.loadPreset_outAny : (s.loadPreset w v b x y).outAny = s.outAny := rfl
@[simp] theorem State.loadPreset_termWritten : (s.loadPreset w v b x y).termWritten = s.termWritten := rfl
@[simp] theorem State.loadPreset_draws : (s.loadPreset w v b x y).draws = s.draws := rfl
@[simp] theorem State.loadPreset_staleDraw : (s.loadPreset w v b x y).staleDraw = s.staleDraw := rfl
@[simp] theorem State.loadPreset_port : (s.loadPreset w v b x y).port = s.port := rfl
@[simp] theorem State.loadPreset_reply : (s.loadPreset w v b x y).reply = s.reply := rfl

/-! ### `sessionInit` -/

@[simp] theorem State.sessionInit_active : (s.sessionInit md cp n).active = true := rfl
@[simp] theorem State.sessionInit_done : (s.sessionInit md cp n).done = false := rfl
@[simp] theorem State.sessionInit_err : (s.sessionInit md cp n).err = s.err := rfl
@[simp] theorem State.sessionInit_ecode : (s.sessionInit md cp n).ecode = s.ecode := rfl
@[simp] theorem State.sessionInit_mode : (s.sessionInit md cp n).mode = md := rfl
@[simp] theorem State.sessionInit_rvalid : (s.sessionInit md cp n).rvalid = s.rvalid := rfl
@[simp] theorem State.sessionInit_sw : (s.sessionInit md cp n).sw = s.sw := rfl
@[simp] theorem State.sessionInit_tw : (s.sessionInit md cp n).tw = s.tw := rfl
@[simp] theorem State.sessionInit_oewsel : (s.sessionInit md cp n).oewsel = s.oewsel := rfl
@[simp] theorem State.sessionInit_soff : (s.sessionInit md cp n).soff = s.soff := rfl
@[simp] theorem State.sessionInit_toff : (s.sessionInit md cp n).toff = s.toff := rfl
@[simp] theorem State.sessionInit_cap : (s.sessionInit md cp n).cap = cp := rfl
@[simp] theorem State.sessionInit_nlen : (s.sessionInit md cp n).nlen = n := rfl
@[simp] theorem State.sessionInit_resid : (s.sessionInit md cp n).resid = s.resid := rfl
@[simp] theorem State.sessionInit_accRest : (s.sessionInit md cp n).accRest = 0 := rfl
@[simp] theorem State.sessionInit_accOff : (s.sessionInit md cp n).accOff = 0 := rfl
@[simp] theorem State.sessionInit_oidx : (s.sessionInit md cp n).oidx = 0 := rfl
@[simp] theorem State.sessionInit_icnt : (s.sessionInit md cp n).icnt = 0 := rfl
@[simp] theorem State.sessionInit_depth : (s.sessionInit md cp n).depth = s.depth := rfl
@[simp] theorem State.sessionInit_obuf : (s.sessionInit md cp n).obuf = s.obuf := rfl
@[simp] theorem State.sessionInit_accAny : (s.sessionInit md cp n).accAny = false := rfl
@[simp] theorem State.sessionInit_outAny : (s.sessionInit md cp n).outAny = false := rfl
@[simp] theorem State.sessionInit_termWritten : (s.sessionInit md cp n).termWritten = false := rfl
@[simp] theorem State.sessionInit_draws : (s.sessionInit md cp n).draws = s.draws := rfl
@[simp] theorem State.sessionInit_staleDraw : (s.sessionInit md cp n).staleDraw = s.staleDraw + 1 := rfl
@[simp] theorem State.sessionInit_port : (s.sessionInit md cp n).port = s.port := rfl
@[simp] theorem State.sessionInit_reply : (s.sessionInit md cp n).reply = s.reply := rfl

/-! ### `obufWrite` -/

@[simp] theorem State.obufWrite_active : (s.obufWrite i x).active = s.active := rfl
@[simp] theorem State.obufWrite_done : (s.obufWrite i x).done = s.done := rfl
@[simp] theorem State.obufWrite_err : (s.obufWrite i x).err = s.err := rfl
@[simp] theorem State.obufWrite_ecode : (s.obufWrite i x).ecode = s.ecode := rfl
@[simp] theorem State.obufWrite_mode : (s.obufWrite i x).mode = s.mode := rfl
@[simp] theorem State.obufWrite_rvalid : (s.obufWrite i x).rvalid = s.rvalid := rfl
@[simp] theorem State.obufWrite_sw : (s.obufWrite i x).sw = s.sw := rfl
@[simp] theorem State.obufWrite_tw : (s.obufWrite i x).tw = s.tw := rfl
@[simp] theorem State.obufWrite_oewsel : (s.obufWrite i x).oewsel = s.oewsel := rfl
@[simp] theorem State.obufWrite_soff : (s.obufWrite i x).soff = s.soff := rfl
@[simp] theorem State.obufWrite_toff : (s.obufWrite i x).toff = s.toff := rfl
@[simp] theorem State.obufWrite_cap : (s.obufWrite i x).cap = s.cap := rfl
@[simp] theorem State.obufWrite_nlen : (s.obufWrite i x).nlen = s.nlen := rfl
@[simp] theorem State.obufWrite_resid : (s.obufWrite i x).resid = s.resid := rfl
@[simp] theorem State.obufWrite_accRest : (s.obufWrite i x).accRest = s.accRest := rfl
@[simp] theorem State.obufWrite_accOff : (s.obufWrite i x).accOff = s.accOff := rfl
@[simp] theorem State.obufWrite_oidx : (s.obufWrite i x).oidx = s.oidx := rfl
@[simp] theorem State.obufWrite_icnt : (s.obufWrite i x).icnt = s.icnt := rfl
@[simp] theorem State.obufWrite_depth : (s.obufWrite i x).depth = s.depth := rfl
@[simp] theorem State.obufWrite_obuf : (s.obufWrite i x).obuf = s.obuf.write i x := rfl
@[simp] theorem State.obufWrite_accAny : (s.obufWrite i x).accAny = s.accAny := rfl
@[simp] theorem State.obufWrite_outAny : (s.obufWrite i x).outAny = s.outAny := rfl
@[simp] theorem State.obufWrite_termWritten : (s.obufWrite i x).termWritten = s.termWritten := rfl
@[simp] theorem State.obufWrite_draws : (s.obufWrite i x).draws = s.draws := rfl
@[simp] theorem State.obufWrite_staleDraw : (s.obufWrite i x).staleDraw = s.staleDraw := rfl
@[simp] theorem State.obufWrite_port : (s.obufWrite i x).port = s.port := rfl
@[simp] theorem State.obufWrite_reply : (s.obufWrite i x).reply = s.reply := rfl

/-! ### `emit` -/

@[simp] theorem State.emit_active : (s.emit a g).active = s.active := rfl
@[simp] theorem State.emit_done : (s.emit a g).done = s.done := rfl
@[simp] theorem State.emit_err : (s.emit a g).err = s.err := rfl
@[simp] theorem State.emit_ecode : (s.emit a g).ecode = s.ecode := rfl
@[simp] theorem State.emit_mode : (s.emit a g).mode = s.mode := rfl
@[simp] theorem State.emit_rvalid : (s.emit a g).rvalid = s.rvalid := rfl
@[simp] theorem State.emit_sw : (s.emit a g).sw = s.sw := rfl
@[simp] theorem State.emit_tw : (s.emit a g).tw = s.tw := rfl
@[simp] theorem State.emit_oewsel : (s.emit a g).oewsel = s.oewsel := rfl
@[simp] theorem State.emit_soff : (s.emit a g).soff = s.soff := rfl
@[simp] theorem State.emit_toff : (s.emit a g).toff = s.toff := rfl
@[simp] theorem State.emit_cap : (s.emit a g).cap = s.cap := rfl
@[simp] theorem State.emit_nlen : (s.emit a g).nlen = s.nlen := rfl
@[simp] theorem State.emit_resid : (s.emit a g).resid = s.resid := rfl
@[simp] theorem State.emit_accRest : (s.emit a g).accRest = s.accRest := rfl
@[simp] theorem State.emit_accOff : (s.emit a g).accOff = s.accOff := rfl
@[simp] theorem State.emit_oidx : (s.emit a g).oidx = s.oidx + 1 := rfl
@[simp] theorem State.emit_icnt : (s.emit a g).icnt = s.icnt := rfl
@[simp] theorem State.emit_depth : (s.emit a g).depth = s.depth := rfl
@[simp] theorem State.emit_obuf : (s.emit a g).obuf =
    s.obuf.write s.oidx.toNat (if a then Config.anyOutput s.draws else outputValue s.toff s.oewsel g) := rfl
@[simp] theorem State.emit_accAny : (s.emit a g).accAny = s.accAny := rfl
@[simp] theorem State.emit_outAny : (s.emit a g).outAny = s.outAny := rfl
@[simp] theorem State.emit_termWritten : (s.emit a g).termWritten = s.termWritten := rfl
@[simp] theorem State.emit_draws : (s.emit a g).draws = if a then s.draws + 1 else s.draws := rfl
@[simp] theorem State.emit_staleDraw : (s.emit a g).staleDraw = s.staleDraw := rfl
@[simp] theorem State.emit_port : (s.emit a g).port = s.port := rfl
@[simp] theorem State.emit_reply : (s.emit a g).reply = s.reply := rfl

/-! ### `setAcc` -/

@[simp] theorem State.setAcc_active : (s.setAcc i r a).active = s.active := rfl
@[simp] theorem State.setAcc_done : (s.setAcc i r a).done = s.done := rfl
@[simp] theorem State.setAcc_err : (s.setAcc i r a).err = s.err := rfl
@[simp] theorem State.setAcc_ecode : (s.setAcc i r a).ecode = s.ecode := rfl
@[simp] theorem State.setAcc_mode : (s.setAcc i r a).mode = s.mode := rfl
@[simp] theorem State.setAcc_rvalid : (s.setAcc i r a).rvalid = s.rvalid := rfl
@[simp] theorem State.setAcc_sw : (s.setAcc i r a).sw = s.sw := rfl
@[simp] theorem State.setAcc_tw : (s.setAcc i r a).tw = s.tw := rfl
@[simp] theorem State.setAcc_oewsel : (s.setAcc i r a).oewsel = s.oewsel := rfl
@[simp] theorem State.setAcc_soff : (s.setAcc i r a).soff = s.soff := rfl
@[simp] theorem State.setAcc_toff : (s.setAcc i r a).toff = s.toff := rfl
@[simp] theorem State.setAcc_cap : (s.setAcc i r a).cap = s.cap := rfl
@[simp] theorem State.setAcc_nlen : (s.setAcc i r a).nlen = s.nlen := rfl
@[simp] theorem State.setAcc_resid : (s.setAcc i r a).resid = s.resid := rfl
@[simp] theorem State.setAcc_accRest : (s.setAcc i r a).accRest = BitVec.ofNat 16 r := rfl
@[simp] theorem State.setAcc_accOff : (s.setAcc i r a).accOff = BitVec.ofNat 5 i := rfl
@[simp] theorem State.setAcc_oidx : (s.setAcc i r a).oidx = s.oidx := rfl
@[simp] theorem State.setAcc_icnt : (s.setAcc i r a).icnt = s.icnt := rfl
@[simp] theorem State.setAcc_depth : (s.setAcc i r a).depth = s.depth := rfl
@[simp] theorem State.setAcc_obuf : (s.setAcc i r a).obuf = s.obuf := rfl
@[simp] theorem State.setAcc_accAny : (s.setAcc i r a).accAny = a := rfl
@[simp] theorem State.setAcc_outAny : (s.setAcc i r a).outAny = s.outAny := rfl
@[simp] theorem State.setAcc_termWritten : (s.setAcc i r a).termWritten = s.termWritten := rfl
@[simp] theorem State.setAcc_draws : (s.setAcc i r a).draws = s.draws := rfl
@[simp] theorem State.setAcc_staleDraw : (s.setAcc i r a).staleDraw = s.staleDraw := rfl
@[simp] theorem State.setAcc_port : (s.setAcc i r a).port = s.port := rfl
@[simp] theorem State.setAcc_reply : (s.setAcc i r a).reply = s.reply := rfl

/-! ### `leaveImage` -/

@[simp] theorem State.leaveImage_active : (s.leaveImage).active = s.active := rfl
@[simp] theorem State.leaveImage_done : (s.leaveImage).done = s.done := rfl
@[simp] theorem State.leaveImage_err : (s.leaveImage).err = s.err := rfl
@[simp] theorem State.leaveImage_ecode : (s.leaveImage).ecode = s.ecode := rfl
@[simp] theorem State.leaveImage_mode : (s.leaveImage).mode = s.mode := rfl
@[simp] theorem State.leaveImage_rvalid : (s.leaveImage).rvalid = s.rvalid := rfl
@[simp] theorem State.leaveImage_sw : (s.leaveImage).sw = s.sw := rfl
@[simp] theorem State.leaveImage_tw : (s.leaveImage).tw = s.tw := rfl
@[simp] theorem State.leaveImage_oewsel : (s.leaveImage).oewsel = s.oewsel := rfl
@[simp] theorem State.leaveImage_soff : (s.leaveImage).soff = s.soff := rfl
@[simp] theorem State.leaveImage_toff : (s.leaveImage).toff = s.toff := rfl
@[simp] theorem State.leaveImage_cap : (s.leaveImage).cap = s.cap := rfl
@[simp] theorem State.leaveImage_nlen : (s.leaveImage).nlen = s.nlen := rfl
@[simp] theorem State.leaveImage_resid : (s.leaveImage).resid = s.resid := rfl
@[simp] theorem State.leaveImage_accRest : (s.leaveImage).accRest = s.accRest := rfl
@[simp] theorem State.leaveImage_accOff : (s.leaveImage).accOff = s.accOff := rfl
@[simp] theorem State.leaveImage_oidx : (s.leaveImage).oidx = s.oidx := rfl
@[simp] theorem State.leaveImage_icnt : (s.leaveImage).icnt = s.icnt := rfl
@[simp] theorem State.leaveImage_depth : (s.leaveImage).depth = s.depth := rfl
@[simp] theorem State.leaveImage_obuf : (s.leaveImage).obuf = s.obuf.redraw s.draws s.cap.toNat := rfl
@[simp] theorem State.leaveImage_accAny : (s.leaveImage).accAny = s.accAny := rfl
@[simp] theorem State.leaveImage_outAny : (s.leaveImage).outAny = true := rfl
@[simp] theorem State.leaveImage_termWritten : (s.leaveImage).termWritten = s.termWritten := rfl
@[simp] theorem State.leaveImage_draws : (s.leaveImage).draws = s.draws + s.cap.toNat := rfl
@[simp] theorem State.leaveImage_staleDraw : (s.leaveImage).staleDraw = s.staleDraw := rfl
@[simp] theorem State.leaveImage_port : (s.leaveImage).port = s.port := rfl
@[simp] theorem State.leaveImage_reply : (s.leaveImage).reply = s.reply := rfl

/-! ### `countPush` -/

@[simp] theorem State.countPush_active : (s.countPush).active = s.active := rfl
@[simp] theorem State.countPush_done : (s.countPush).done = s.done := rfl
@[simp] theorem State.countPush_err : (s.countPush).err = s.err := rfl
@[simp] theorem State.countPush_ecode : (s.countPush).ecode = s.ecode := rfl
@[simp] theorem State.countPush_mode : (s.countPush).mode = s.mode := rfl
@[simp] theorem State.countPush_rvalid : (s.countPush).rvalid = s.rvalid := rfl
@[simp] theorem State.countPush_sw : (s.countPush).sw = s.sw := rfl
@[simp] theorem State.countPush_tw : (s.countPush).tw = s.tw := rfl
@[simp] theorem State.countPush_oewsel : (s.countPush).oewsel = s.oewsel := rfl
@[simp] theorem State.countPush_soff : (s.countPush).soff = s.soff := rfl
@[simp] theorem State.countPush_toff : (s.countPush).toff = s.toff := rfl
@[simp] theorem State.countPush_cap : (s.countPush).cap = s.cap := rfl
@[simp] theorem State.countPush_nlen : (s.countPush).nlen = s.nlen := rfl
@[simp] theorem State.countPush_resid : (s.countPush).resid = s.resid := rfl
@[simp] theorem State.countPush_accRest : (s.countPush).accRest = s.accRest := rfl
@[simp] theorem State.countPush_accOff : (s.countPush).accOff = s.accOff := rfl
@[simp] theorem State.countPush_oidx : (s.countPush).oidx = s.oidx := rfl
@[simp] theorem State.countPush_icnt : (s.countPush).icnt = s.icnt + 1 := rfl
@[simp] theorem State.countPush_depth : (s.countPush).depth = s.depth := rfl
@[simp] theorem State.countPush_obuf : (s.countPush).obuf = s.obuf := rfl
@[simp] theorem State.countPush_accAny : (s.countPush).accAny = s.accAny := rfl
@[simp] theorem State.countPush_outAny : (s.countPush).outAny = s.outAny := rfl
@[simp] theorem State.countPush_termWritten : (s.countPush).termWritten = s.termWritten := rfl
@[simp] theorem State.countPush_draws : (s.countPush).draws = s.draws := rfl
@[simp] theorem State.countPush_staleDraw : (s.countPush).staleDraw = s.staleDraw := rfl
@[simp] theorem State.countPush_port : (s.countPush).port = s.port := rfl
@[simp] theorem State.countPush_reply : (s.countPush).reply = s.reply := rfl

/-! ### `endSession` -/

@[simp] theorem State.endSession_active : (s.endSession).active = false := rfl
@[simp] theorem State.endSession_done : (s.endSession).done = true := rfl
@[simp] theorem State.endSession_err : (s.endSession).err = s.err := rfl
@[simp] theorem State.endSession_ecode : (s.endSession).ecode = s.ecode := rfl
@[simp] theorem State.endSession_mode : (s.endSession).mode = s.mode := rfl
@[simp] theorem State.endSession_rvalid : (s.endSession).rvalid = s.rvalid := rfl
@[simp] theorem State.endSession_sw : (s.endSession).sw = s.sw := rfl
@[simp] theorem State.endSession_tw : (s.endSession).tw = s.tw := rfl
@[simp] theorem State.endSession_oewsel : (s.endSession).oewsel = s.oewsel := rfl
@[simp] theorem State.endSession_soff : (s.endSession).soff = s.soff := rfl
@[simp] theorem State.endSession_toff : (s.endSession).toff = s.toff := rfl
@[simp] theorem State.endSession_cap : (s.endSession).cap = s.cap := rfl
@[simp] theorem State.endSession_nlen : (s.endSession).nlen = s.nlen := rfl
@[simp] theorem State.endSession_resid : (s.endSession).resid = s.resid := rfl
@[simp] theorem State.endSession_accRest : (s.endSession).accRest = s.accRest := rfl
@[simp] theorem State.endSession_accOff : (s.endSession).accOff = s.accOff := rfl
@[simp] theorem State.endSession_oidx : (s.endSession).oidx = s.oidx := rfl
@[simp] theorem State.endSession_icnt : (s.endSession).icnt = s.icnt := rfl
@[simp] theorem State.endSession_depth : (s.endSession).depth = s.depth := rfl
@[simp] theorem State.endSession_obuf : (s.endSession).obuf = s.obuf := rfl
@[simp] theorem State.endSession_accAny : (s.endSession).accAny = s.accAny := rfl
@[simp] theorem State.endSession_outAny : (s.endSession).outAny = s.outAny := rfl
@[simp] theorem State.endSession_termWritten : (s.endSession).termWritten = s.termWritten := rfl
@[simp] theorem State.endSession_draws : (s.endSession).draws = s.draws := rfl
@[simp] theorem State.endSession_staleDraw : (s.endSession).staleDraw = s.staleDraw := rfl
@[simp] theorem State.endSession_port : (s.endSession).port = s.port := rfl
@[simp] theorem State.endSession_reply : (s.endSession).reply = s.reply := rfl

/-! ### `hostRead` -/

@[simp] theorem State.hostRead_active : (s.hostRead addr).active = s.active := rfl
@[simp] theorem State.hostRead_done : (s.hostRead addr).done = s.done := rfl
@[simp] theorem State.hostRead_err : (s.hostRead addr).err = s.err := rfl
@[simp] theorem State.hostRead_ecode : (s.hostRead addr).ecode = s.ecode := rfl
@[simp] theorem State.hostRead_mode : (s.hostRead addr).mode = s.mode := rfl
@[simp] theorem State.hostRead_rvalid : (s.hostRead addr).rvalid = s.rvalid := rfl
@[simp] theorem State.hostRead_sw : (s.hostRead addr).sw = s.sw := rfl
@[simp] theorem State.hostRead_tw : (s.hostRead addr).tw = s.tw := rfl
@[simp] theorem State.hostRead_oewsel : (s.hostRead addr).oewsel = s.oewsel := rfl
@[simp] theorem State.hostRead_soff : (s.hostRead addr).soff = s.soff := rfl
@[simp] theorem State.hostRead_toff : (s.hostRead addr).toff = s.toff := rfl
@[simp] theorem State.hostRead_cap : (s.hostRead addr).cap = s.cap := rfl
@[simp] theorem State.hostRead_nlen : (s.hostRead addr).nlen = s.nlen := rfl
@[simp] theorem State.hostRead_resid : (s.hostRead addr).resid = s.resid := rfl
@[simp] theorem State.hostRead_accRest : (s.hostRead addr).accRest = s.accRest := rfl
@[simp] theorem State.hostRead_accOff : (s.hostRead addr).accOff = s.accOff := rfl
@[simp] theorem State.hostRead_oidx : (s.hostRead addr).oidx = s.oidx := rfl
@[simp] theorem State.hostRead_icnt : (s.hostRead addr).icnt = s.icnt := rfl
@[simp] theorem State.hostRead_depth : (s.hostRead addr).depth = s.depth := rfl
@[simp] theorem State.hostRead_obuf : (s.hostRead addr).obuf = s.obuf := rfl
@[simp] theorem State.hostRead_accAny : (s.hostRead addr).accAny = s.accAny := rfl
@[simp] theorem State.hostRead_outAny : (s.hostRead addr).outAny = s.outAny := rfl
@[simp] theorem State.hostRead_termWritten : (s.hostRead addr).termWritten = s.termWritten := rfl
@[simp] theorem State.hostRead_draws : (s.hostRead addr).draws = s.draws := rfl
@[simp] theorem State.hostRead_staleDraw : (s.hostRead addr).staleDraw = s.staleDraw := rfl
@[simp] theorem State.hostRead_port : (s.hostRead addr).port = s.port := rfl
@[simp] theorem State.hostRead_reply : (s.hostRead addr).reply = some (s.readWord addr) := rfl

/-! ### `writeTerminator` -/

@[simp] theorem State.writeTerminator_active : (s.writeTerminator).active = s.active := rfl
@[simp] theorem State.writeTerminator_done : (s.writeTerminator).done = s.done := rfl
@[simp] theorem State.writeTerminator_err : (s.writeTerminator).err = s.err := rfl
@[simp] theorem State.writeTerminator_ecode : (s.writeTerminator).ecode = s.ecode := rfl
@[simp] theorem State.writeTerminator_mode : (s.writeTerminator).mode = s.mode := rfl
@[simp] theorem State.writeTerminator_rvalid : (s.writeTerminator).rvalid = s.rvalid := rfl
@[simp] theorem State.writeTerminator_sw : (s.writeTerminator).sw = s.sw := rfl
@[simp] theorem State.writeTerminator_tw : (s.writeTerminator).tw = s.tw := rfl
@[simp] theorem State.writeTerminator_oewsel : (s.writeTerminator).oewsel = s.oewsel := rfl
@[simp] theorem State.writeTerminator_soff : (s.writeTerminator).soff = s.soff := rfl
@[simp] theorem State.writeTerminator_toff : (s.writeTerminator).toff = s.toff := rfl
@[simp] theorem State.writeTerminator_cap : (s.writeTerminator).cap = s.cap := rfl
@[simp] theorem State.writeTerminator_nlen : (s.writeTerminator).nlen = s.nlen := rfl
@[simp] theorem State.writeTerminator_resid : (s.writeTerminator).resid = s.resid := rfl
@[simp] theorem State.writeTerminator_accRest : (s.writeTerminator).accRest = s.accRest := rfl
@[simp] theorem State.writeTerminator_accOff : (s.writeTerminator).accOff = s.accOff := rfl
@[simp] theorem State.writeTerminator_oidx : (s.writeTerminator).oidx = s.oidx := rfl
@[simp] theorem State.writeTerminator_icnt : (s.writeTerminator).icnt = s.icnt := rfl
@[simp] theorem State.writeTerminator_depth : (s.writeTerminator).depth = s.depth := rfl
@[simp] theorem State.writeTerminator_obuf : (s.writeTerminator).obuf =
    s.obuf.write (s.cap.toNat - 1) (terminatorUnit s.nlen.toNat) := rfl
@[simp] theorem State.writeTerminator_accAny : (s.writeTerminator).accAny = s.accAny := rfl
@[simp] theorem State.writeTerminator_outAny : (s.writeTerminator).outAny = s.outAny := rfl
@[simp] theorem State.writeTerminator_termWritten : (s.writeTerminator).termWritten = true := rfl
@[simp] theorem State.writeTerminator_draws : (s.writeTerminator).draws = s.draws := rfl
@[simp] theorem State.writeTerminator_staleDraw : (s.writeTerminator).staleDraw = s.staleDraw := rfl
@[simp] theorem State.writeTerminator_port : (s.writeTerminator).port = s.port := rfl
@[simp] theorem State.writeTerminator_reply : (s.writeTerminator).reply = s.reply := rfl

/-! ### `startDecode` -/

@[simp] theorem State.startDecode_active : (s.startDecode i n).active = true := rfl
@[simp] theorem State.startDecode_done : (s.startDecode i n).done = false := rfl
@[simp] theorem State.startDecode_err : (s.startDecode i n).err = s.err := rfl
@[simp] theorem State.startDecode_ecode : (s.startDecode i n).ecode = s.ecode := rfl
@[simp] theorem State.startDecode_mode : (s.startDecode i n).mode = .dec := rfl
@[simp] theorem State.startDecode_rvalid : (s.startDecode i n).rvalid = false := rfl
@[simp] theorem State.startDecode_sw : (s.startDecode i n).sw = 14 := rfl
@[simp] theorem State.startDecode_tw : (s.startDecode i n).tw = 8 := rfl
@[simp] theorem State.startDecode_oewsel : (s.startDecode i n).oewsel = 0 := rfl
@[simp] theorem State.startDecode_soff : (s.startDecode i n).soff = dataBase := rfl
@[simp] theorem State.startDecode_toff : (s.startDecode i n).toff = 0 := rfl
@[simp] theorem State.startDecode_cap : (s.startDecode i n).cap = BitVec.ofNat 28 i := rfl
@[simp] theorem State.startDecode_nlen : (s.startDecode i n).nlen = n := rfl
@[simp] theorem State.startDecode_resid : (s.startDecode i n).resid = s.resid := rfl
@[simp] theorem State.startDecode_accRest : (s.startDecode i n).accRest = 0 := rfl
@[simp] theorem State.startDecode_accOff : (s.startDecode i n).accOff = 0 := rfl
@[simp] theorem State.startDecode_oidx : (s.startDecode i n).oidx = 0 := rfl
@[simp] theorem State.startDecode_icnt : (s.startDecode i n).icnt = 0 := rfl
@[simp] theorem State.startDecode_depth : (s.startDecode i n).depth = s.depth := rfl
@[simp] theorem State.startDecode_obuf : (s.startDecode i n).obuf = s.obuf := rfl
@[simp] theorem State.startDecode_accAny : (s.startDecode i n).accAny = false := rfl
@[simp] theorem State.startDecode_outAny : (s.startDecode i n).outAny = !headerInImage s.resid i n.toNat := rfl
@[simp] theorem State.startDecode_termWritten : (s.startDecode i n).termWritten = false := rfl
@[simp] theorem State.startDecode_draws : (s.startDecode i n).draws = s.draws := rfl
@[simp] theorem State.startDecode_staleDraw : (s.startDecode i n).staleDraw = s.staleDraw + 1 := rfl
@[simp] theorem State.startDecode_port : (s.startDecode i n).port = s.port := rfl
@[simp] theorem State.startDecode_reply : (s.startDecode i n).reply = s.reply := rfl

/-! ### `hostReset` -/

@[simp] theorem State.hostReset_active : (s.hostReset).active = false := rfl
@[simp] theorem State.hostReset_done : (s.hostReset).done = false := rfl
@[simp] theorem State.hostReset_err : (s.hostReset).err = false := rfl
@[simp] theorem State.hostReset_ecode : (s.hostReset).ecode = 0 := rfl
@[simp] theorem State.hostReset_mode : (s.hostReset).mode = .none := rfl
@[simp] theorem State.hostReset_rvalid : (s.hostReset).rvalid = false := rfl
@[simp] theorem State.hostReset_sw : (s.hostReset).sw = 0 := rfl
@[simp] theorem State.hostReset_tw : (s.hostReset).tw = 0 := rfl
@[simp] theorem State.hostReset_oewsel : (s.hostReset).oewsel = 0 := rfl
@[simp] theorem State.hostReset_soff : (s.hostReset).soff = 0 := rfl
@[simp] theorem State.hostReset_toff : (s.hostReset).toff = 0 := rfl
@[simp] theorem State.hostReset_cap : (s.hostReset).cap = 0 := rfl
@[simp] theorem State.hostReset_nlen : (s.hostReset).nlen = 0 := rfl
@[simp] theorem State.hostReset_resid : (s.hostReset).resid = 0 := rfl
@[simp] theorem State.hostReset_accRest : (s.hostReset).accRest = 0 := rfl
@[simp] theorem State.hostReset_accOff : (s.hostReset).accOff = 0 := rfl
@[simp] theorem State.hostReset_oidx : (s.hostReset).oidx = 0 := rfl
@[simp] theorem State.hostReset_icnt : (s.hostReset).icnt = 0 := rfl
@[simp] theorem State.hostReset_depth : (s.hostReset).depth = s.depth := rfl
@[simp] theorem State.hostReset_obuf : (s.hostReset).obuf = [] := rfl
@[simp] theorem State.hostReset_accAny : (s.hostReset).accAny = false := rfl
@[simp] theorem State.hostReset_outAny : (s.hostReset).outAny = false := rfl
@[simp] theorem State.hostReset_termWritten : (s.hostReset).termWritten = false := rfl
@[simp] theorem State.hostReset_draws : (s.hostReset).draws = s.draws := rfl
@[simp] theorem State.hostReset_staleDraw : (s.hostReset).staleDraw = s.staleDraw + 1 := rfl
@[simp] theorem State.hostReset_port : (s.hostReset).port = s.port := rfl
@[simp] theorem State.hostReset_reply : (s.hostReset).reply = s.reply := rfl

/-! ### `offerCommand` -/

@[simp] theorem State.offerCommand_active : (s.offerCommand addr).active = s.active := rfl
@[simp] theorem State.offerCommand_done : (s.offerCommand addr).done = s.done := rfl
@[simp] theorem State.offerCommand_err : (s.offerCommand addr).err = s.err := rfl
@[simp] theorem State.offerCommand_ecode : (s.offerCommand addr).ecode = s.ecode := rfl
@[simp] theorem State.offerCommand_mode : (s.offerCommand addr).mode = s.mode := rfl
@[simp] theorem State.offerCommand_rvalid : (s.offerCommand addr).rvalid = s.rvalid := rfl
@[simp] theorem State.offerCommand_sw : (s.offerCommand addr).sw = s.sw := rfl
@[simp] theorem State.offerCommand_tw : (s.offerCommand addr).tw = s.tw := rfl
@[simp] theorem State.offerCommand_oewsel : (s.offerCommand addr).oewsel = s.oewsel := rfl
@[simp] theorem State.offerCommand_soff : (s.offerCommand addr).soff = s.soff := rfl
@[simp] theorem State.offerCommand_toff : (s.offerCommand addr).toff = s.toff := rfl
@[simp] theorem State.offerCommand_cap : (s.offerCommand addr).cap = s.cap := rfl
@[simp] theorem State.offerCommand_nlen : (s.offerCommand addr).nlen = s.nlen := rfl
@[simp] theorem State.offerCommand_resid : (s.offerCommand addr).resid = s.resid := rfl
@[simp] theorem State.offerCommand_accRest : (s.offerCommand addr).accRest = s.accRest := rfl
@[simp] theorem State.offerCommand_accOff : (s.offerCommand addr).accOff = s.accOff := rfl
@[simp] theorem State.offerCommand_oidx : (s.offerCommand addr).oidx = s.oidx := rfl
@[simp] theorem State.offerCommand_icnt : (s.offerCommand addr).icnt = s.icnt := rfl
@[simp] theorem State.offerCommand_depth : (s.offerCommand addr).depth = s.depth := rfl
@[simp] theorem State.offerCommand_obuf : (s.offerCommand addr).obuf = s.obuf := rfl
@[simp] theorem State.offerCommand_accAny : (s.offerCommand addr).accAny = s.accAny := rfl
@[simp] theorem State.offerCommand_outAny : (s.offerCommand addr).outAny = s.outAny := rfl
@[simp] theorem State.offerCommand_termWritten : (s.offerCommand addr).termWritten = s.termWritten := rfl
@[simp] theorem State.offerCommand_draws : (s.offerCommand addr).draws = s.draws := rfl
@[simp] theorem State.offerCommand_staleDraw : (s.offerCommand addr).staleDraw = s.staleDraw := rfl
@[simp] theorem State.offerCommand_port : (s.offerCommand addr).port = .command addr :: s.port := rfl
@[simp] theorem State.offerCommand_reply : (s.offerCommand addr).reply = s.reply := rfl

end Sys2Proof.Machine
end

