-- ==== Sys2Proof/Laws/Ops.lean ====
section
/-! SUPPORT. What each shared operation can do, said once: a checked command, an emit, the loop of PUSH. -/

namespace Sys2Proof.Machine

open Host (Outcome)

/-! ### A checked command -/

/-- A checked command always completes: it is refused with the first cause that applies, or it has its effect (R200, R203). -/
theorem perform_cases {checks : List (Bool × Cause)} {effect : State → State} {s t : State}
    (h : perform checks effect s = .next t) :
    (∃ c, firstCause checks = some c ∧ t = s.raise c) ∨ (firstCause checks = none ∧ t = effect s) := by
  simp only [perform, Outcome.next.injEq] at h
  cases hc : firstCause checks with
  | none => exact .inr ⟨rfl, by simp [hc] at h; exact h.symm⟩
  | some c => exact .inl ⟨c, rfl, by simp [hc] at h; exact h.symm⟩

@[simp] theorem firstCause_nil : firstCause [] = none := rfl

@[simp] theorem firstCause_cons (b : Bool) (c : Cause) (rest : List (Bool × Cause)) :
    firstCause ((b, c) :: rest) = if b then some c else firstCause rest := by cases b <;> rfl

theorem perform_effect {checks : List (Bool × Cause)} (effect : State → State) (s : State)
    (h : firstCause checks = none) : perform checks effect s = .next (effect s) := by
  simp [perform, h]

theorem perform_refuse {checks : List (Bool × Cause)} {c : Cause} (effect : State → State) (s : State)
    (h : firstCause checks = some c) : perform checks effect s = .next (s.raise c) := by
  simp [perform, h]

/-! ### Indices below the capacity -/

theorem State.full_eq_false {s : State} : s.full = false ↔ s.oidx.toNat ≠ s.cap.toNat := by
  simp [State.full, BitVec.toNat_eq]

theorem State.full_eq_true {s : State} : s.full = true ↔ s.oidx.toNat = s.cap.toNat := by
  simp [State.full, BitVec.toNat_eq]

/-- Below the capacity OIDX does not wrap when it is incremented (R40). -/
theorem State.oidx_succ {s : State} (h : s.oidx.toNat < s.cap.toNat) : (s.oidx + 1).toNat = s.oidx.toNat + 1 := by
  have := s.cap.isLt
  rw [BitVec.toNat_add]; simp; omega

/-! ### The loop of PUSH -/

/-- The loop of PUSH writes the accumulator, OIDX, OBUF and the draw counter, and nothing else (R111). -/
theorem pushLoop_frame (value : Nat) (e : Bool) (fuel off rest : Nat) (ra : Bool) (s : State) :
    let t := pushLoop value e fuel off rest ra s
    t = { s with
      accOff := t.accOff, accRest := t.accRest, accAny := t.accAny, oidx := t.oidx, draws := t.draws, obuf := t.obuf } := by
  induction fuel generalizing off rest ra s with
  | zero => rfl
  | succ fuel ih =>
    simp only [pushLoop]
    split
    · split
      · rfl
      · have h := ih (off - s.tw.toNat) 0 false
          (s.emit (ra || e || s.outAny) (groupValue s.tw.toNat rest value (off - s.tw.toNat)))
        simp only at h
        rw [h]
        rfl
    · rfl

section
variable (value : Nat) (e : Bool) (fuel off rest : Nat) (ra : Bool) (s : State)

@[simp] theorem pushLoop_active : (pushLoop value e fuel off rest ra s).active = s.active := by rw [pushLoop_frame]
@[simp] theorem pushLoop_done : (pushLoop value e fuel off rest ra s).done = s.done := by rw [pushLoop_frame]
@[simp] theorem pushLoop_err : (pushLoop value e fuel off rest ra s).err = s.err := by rw [pushLoop_frame]
@[simp] theorem pushLoop_ecode : (pushLoop value e fuel off rest ra s).ecode = s.ecode := by rw [pushLoop_frame]
@[simp] theorem pushLoop_mode : (pushLoop value e fuel off rest ra s).mode = s.mode := by rw [pushLoop_frame]
@[simp] theorem pushLoop_rvalid : (pushLoop value e fuel off rest ra s).rvalid = s.rvalid := by rw [pushLoop_frame]
@[simp] theorem pushLoop_sw : (pushLoop value e fuel off rest ra s).sw = s.sw := by rw [pushLoop_frame]
@[simp] theorem pushLoop_tw : (pushLoop value e fuel off rest ra s).tw = s.tw := by rw [pushLoop_frame]
@[simp] theorem pushLoop_oewsel : (pushLoop value e fuel off rest ra s).oewsel = s.oewsel := by rw [pushLoop_frame]
@[simp] theorem pushLoop_soff : (pushLoop value e fuel off rest ra s).soff = s.soff := by rw [pushLoop_frame]
@[simp] theorem pushLoop_toff : (pushLoop value e fuel off rest ra s).toff = s.toff := by rw [pushLoop_frame]
@[simp] theorem pushLoop_cap : (pushLoop value e fuel off rest ra s).cap = s.cap := by rw [pushLoop_frame]
@[simp] theorem pushLoop_nlen : (pushLoop value e fuel off rest ra s).nlen = s.nlen := by rw [pushLoop_frame]
@[simp] theorem pushLoop_resid : (pushLoop value e fuel off rest ra s).resid = s.resid := by rw [pushLoop_frame]
@[simp] theorem pushLoop_icnt : (pushLoop value e fuel off rest ra s).icnt = s.icnt := by rw [pushLoop_frame]
@[simp] theorem pushLoop_depth : (pushLoop value e fuel off rest ra s).depth = s.depth := by rw [pushLoop_frame]
@[simp] theorem pushLoop_outAny : (pushLoop value e fuel off rest ra s).outAny = s.outAny := by rw [pushLoop_frame]
@[simp] theorem pushLoop_termWritten : (pushLoop value e fuel off rest ra s).termWritten = s.termWritten := by rw [pushLoop_frame]
@[simp] theorem pushLoop_staleDraw : (pushLoop value e fuel off rest ra s).staleDraw = s.staleDraw := by rw [pushLoop_frame]
@[simp] theorem pushLoop_port : (pushLoop value e fuel off rest ra s).port = s.port := by rw [pushLoop_frame]
@[simp] theorem pushLoop_reply : (pushLoop value e fuel off rest ra s).reply = s.reply := by rw [pushLoop_frame]

end

/-- What the loop of PUSH does when the buffer has room and TW is at least 1 (R105, R106, R111). With k whole groups in the `off`
bits and `room` entries left, it emits min(k, room) groups, the first with the pending bits; if the buffer fills it stops
early with ACC_REST 0, else it folds the bits that are left. -/
theorem pushLoop_spec (value : Nat) (e : Bool) (fuel off rest : Nat) (ra : Bool) (s : State)
    (htw : 1 ≤ s.tw.toNat) (hfuel : off ≤ fuel) (hroom : s.oidx.toNat < s.cap.toNat) :
    let t := pushLoop value e fuel off rest ra s
    let k := off / s.tw.toNat
    let room := s.cap.toNat - s.oidx.toNat
    (k < room →
      t.oidx.toNat = s.oidx.toNat + k ∧ t.accOff = BitVec.ofNat 5 (off % s.tw.toNat) ∧
      t.accRest =
        BitVec.ofNat 16 (foldRest s.tw.toNat (if k = 0 then rest else 0) value (off % s.tw.toNat)) ∧
      t.accAny = (decide (off % s.tw.toNat ≠ 0) && ((decide (k = 0) && ra) || e))) ∧
    (room ≤ k →
      t.oidx = s.cap ∧ t.accOff = BitVec.ofNat 5 (off - room * s.tw.toNat) ∧ t.accRest = 0 ∧ t.accAny = false) ∧
    (∀ i, i < s.oidx.toNat ∨ s.oidx.toNat + min k room ≤ i → t.obuf.read i = s.obuf.read i) ∧
    (∀ j, j < min k room → t.obuf.read (s.oidx.toNat + j) = some
      (if (decide (j = 0) && ra) || e || s.outAny then Config.anyOutput (s.draws + j)
       else outputValue s.toff s.oewsel
        (groupValue s.tw.toNat (if j = 0 then rest else 0) value (off - (j + 1) * s.tw.toNat)))) := by
  induction fuel generalizing off rest ra s with
  | zero =>
    have hoff : off = 0 := by omega
    subst hoff
    refine ⟨fun _ => by simp [pushLoop], fun h => ?_, fun i _ => by simp [pushLoop], fun j hj => ?_⟩
    · simp at h; omega
    · simp at hj
  | succ fuel ih =>
    simp only [pushLoop]
    by_cases hle : s.tw.toNat ≤ off
    · rw [if_pos hle]
      obtain ⟨off', rfl⟩ : ∃ off', off = off' + s.tw.toNat := ⟨off - s.tw.toNat, by omega⟩
      have hk : (off' + s.tw.toNat) / s.tw.toNat = off' / s.tw.toNat + 1 := Nat.add_div_right off' (by omega)
      have hmod : (off' + s.tw.toNat) % s.tw.toNat = off' % s.tw.toNat := Nat.add_mod_right off' _
      have hgroup : ∀ j, off' + s.tw.toNat - (j + 1) * s.tw.toNat = off' - j * s.tw.toNat := by
        intro j; rw [Nat.succ_mul]; omega
      simp only [hk, hmod, hgroup, Nat.add_sub_cancel]
      generalize hq : off' / s.tw.toNat = q
      have hread : ∀ i, i ≠ s.oidx.toNat →
          (s.emit (ra || e || s.outAny) (groupValue s.tw.toNat rest value off')).obuf.read i = s.obuf.read i :=
        fun i hi => by simp [Memory.read_write_other _ _ hi]
      have hfirst :
          (s.emit (ra || e || s.outAny) (groupValue s.tw.toNat rest value off')).obuf.read s.oidx.toNat = some
            (if ra || e || s.outAny then Config.anyOutput s.draws
             else outputValue s.toff s.oewsel (groupValue s.tw.toNat rest value off')) := by simp
      have hsucc := State.oidx_succ hroom
      split
      · rename_i hfull
        have hcap : s.oidx.toNat + 1 = s.cap.toNat := by
          rwa [State.full_eq_true, State.emit_oidx, State.emit_cap, hsucc] at hfull
        have hroom1 : s.cap.toNat - s.oidx.toNat = 1 := by omega
        rw [hroom1, Nat.min_eq_right (Nat.le_add_left 1 _)]
        refine ⟨fun h => by omega, fun _ => ⟨?_, by simp, by simp, by simp⟩, fun i hi => ?_, fun j hj => ?_⟩
        · simp only [State.setAcc_oidx, State.emit_oidx]
          exact BitVec.eq_of_toNat_eq (by rw [hsucc, hcap])
        · simp only [State.setAcc_obuf]
          exact hread i (by omega)
        · obtain rfl : j = 0 := by omega
          simp
      · rename_i hfull
        have hlt : s.oidx.toNat + 1 < s.cap.toNat := by
          rw [Bool.not_eq_true, State.full_eq_false, State.emit_oidx, State.emit_cap, hsucc] at hfull; omega
        obtain ⟨h1, h2, h3, h4⟩ := ih off' 0 false
          (s.emit (ra || e || s.outAny) (groupValue s.tw.toNat rest value off')) (by simpa using htw) (by omega)
          (by rwa [State.emit_oidx, State.emit_cap, hsucc])
        simp only [State.emit_tw, State.emit_cap, State.emit_oidx, State.emit_outAny, State.emit_draws,
          State.emit_toff, State.emit_oewsel, hsucc, hq] at h1 h2 h3 h4
        have hmin : min (q + 1) (s.cap.toNat - s.oidx.toNat) =
            min q (s.cap.toNat - (s.oidx.toNat + 1)) + 1 := by
          rw [show s.cap.toNat - s.oidx.toNat = s.cap.toNat - (s.oidx.toNat + 1) + 1 by omega,
            Nat.add_min_add_right]
        rw [hmin]
        refine ⟨fun h => ?_, fun h => ?_, fun i hi => ?_, fun j hj => ?_⟩
        · obtain ⟨a, b, c, d⟩ := h1 (by omega)
          exact ⟨by omega, b, by simpa using c, by by_cases h0 : off' % s.tw.toNat = 0 <;> simp [d, h0]⟩
        · obtain ⟨a, b, c, d⟩ := h2 (by omega)
          refine ⟨a, ?_, c, d⟩
          rw [b]
          congr 1
          obtain ⟨r, hr⟩ : ∃ r, s.cap.toNat - s.oidx.toNat = r + 1 := ⟨s.cap.toNat - s.oidx.toNat - 1, by omega⟩
          rw [hr, show s.cap.toNat - (s.oidx.toNat + 1) = r by omega, Nat.succ_mul]
          omega
        · rw [h3 i (by omega)]
          exact hread i (by omega)
        · cases j with
          | zero =>
            rw [Nat.add_zero, h3 _ (by omega)]
            simp
          | succ j =>
            rw [show s.oidx.toNat + (j + 1) = s.oidx.toNat + 1 + j by omega, h4 j (by omega)]
            congr 1
            by_cases hany : (e || s.outAny) = true
            · simp only [Bool.or_assoc, hany, Bool.or_true, if_true, Nat.add_assoc, Nat.add_comm 1 j]
            · simp only [Bool.not_eq_true] at hany
              simp [hany]
    · have hk : off / s.tw.toNat = 0 := Nat.div_eq_of_lt (by omega)
      have hm : off % s.tw.toNat = off := Nat.mod_eq_of_lt (by omega)
      rw [if_neg hle]
      refine ⟨fun _ => by simp [hk, hm], fun h => by rw [hk] at h; omega, fun i _ => by simp, fun j hj => ?_⟩
      rw [hk] at hj; omega

end Sys2Proof.Machine
end

