-- ==== Sys2Proof/Laws/Push.lean ====
section
/-! SUPPORT. What PUSH and FLUSH leave alone, and what an element does when the buffer has room. -/

namespace Sys2Proof.Machine

section
variable (x : Elem) (s : State)

@[simp] theorem State.takeElement_active : (s.takeElement x).active = s.active := by
  simp only [State.takeElement, pushLoop_active]; split <;> rfl
@[simp] theorem State.takeElement_done : (s.takeElement x).done = s.done := by
  simp only [State.takeElement, pushLoop_done]; split <;> rfl
@[simp] theorem State.takeElement_err : (s.takeElement x).err = s.err := by
  simp only [State.takeElement, pushLoop_err]; split <;> rfl
@[simp] theorem State.takeElement_ecode : (s.takeElement x).ecode = s.ecode := by
  simp only [State.takeElement, pushLoop_ecode]; split <;> rfl
@[simp] theorem State.takeElement_mode : (s.takeElement x).mode = s.mode := by
  simp only [State.takeElement, pushLoop_mode]; split <;> rfl
@[simp] theorem State.takeElement_rvalid : (s.takeElement x).rvalid = s.rvalid := by
  simp only [State.takeElement, pushLoop_rvalid]; split <;> rfl
@[simp] theorem State.takeElement_sw : (s.takeElement x).sw = s.sw := by
  simp only [State.takeElement, pushLoop_sw]; split <;> rfl
@[simp] theorem State.takeElement_tw : (s.takeElement x).tw = s.tw := by
  simp only [State.takeElement, pushLoop_tw]; split <;> rfl
@[simp] theorem State.takeElement_oewsel : (s.takeElement x).oewsel = s.oewsel := by
  simp only [State.takeElement, pushLoop_oewsel]; split <;> rfl
@[simp] theorem State.takeElement_soff : (s.takeElement x).soff = s.soff := by
  simp only [State.takeElement, pushLoop_soff]; split <;> rfl
@[simp] theorem State.takeElement_toff : (s.takeElement x).toff = s.toff := by
  simp only [State.takeElement, pushLoop_toff]; split <;> rfl
@[simp] theorem State.takeElement_cap : (s.takeElement x).cap = s.cap := by
  simp only [State.takeElement, pushLoop_cap]; split <;> rfl
@[simp] theorem State.takeElement_nlen : (s.takeElement x).nlen = s.nlen := by
  simp only [State.takeElement, pushLoop_nlen]; split <;> rfl
@[simp] theorem State.takeElement_resid : (s.takeElement x).resid = s.resid := by
  simp only [State.takeElement, pushLoop_resid]; split <;> rfl
@[simp] theorem State.takeElement_depth : (s.takeElement x).depth = s.depth := by
  simp only [State.takeElement, pushLoop_depth]; split <;> rfl
@[simp] theorem State.takeElement_termWritten : (s.takeElement x).termWritten = s.termWritten := by
  simp only [State.takeElement, pushLoop_termWritten]; split <;> rfl
@[simp] theorem State.takeElement_staleDraw : (s.takeElement x).staleDraw = s.staleDraw := by
  simp only [State.takeElement, pushLoop_staleDraw]; split <;> rfl
@[simp] theorem State.takeElement_port : (s.takeElement x).port = s.port := by
  simp only [State.takeElement, pushLoop_port]; split <;> rfl
@[simp] theorem State.takeElement_reply : (s.takeElement x).reply = s.reply := by
  simp only [State.takeElement, pushLoop_reply]; split <;> rfl

@[simp] theorem State.takeElement_icnt : (s.takeElement x).icnt = s.icnt := by
  simp only [State.takeElement, pushLoop_icnt]; split <;> rfl

@[simp] theorem State.takeElement_outAny : (s.takeElement x).outAny = (s.unitOutsideImage x || s.outAny) := by
  simp only [State.takeElement, pushLoop_outAny]; split <;> simp_all

@[simp] theorem State.pushElement_active : (s.pushElement x).active = s.active := by
  simp only [State.pushElement]; split <;> simp
@[simp] theorem State.pushElement_done : (s.pushElement x).done = s.done := by
  simp only [State.pushElement]; split <;> simp
@[simp] theorem State.pushElement_err : (s.pushElement x).err = s.err := by
  simp only [State.pushElement]; split <;> simp
@[simp] theorem State.pushElement_ecode : (s.pushElement x).ecode = s.ecode := by
  simp only [State.pushElement]; split <;> simp
@[simp] theorem State.pushElement_mode : (s.pushElement x).mode = s.mode := by
  simp only [State.pushElement]; split <;> simp
@[simp] theorem State.pushElement_rvalid : (s.pushElement x).rvalid = s.rvalid := by
  simp only [State.pushElement]; split <;> simp
@[simp] theorem State.pushElement_sw : (s.pushElement x).sw = s.sw := by
  simp only [State.pushElement]; split <;> simp
@[simp] theorem State.pushElement_tw : (s.pushElement x).tw = s.tw := by
  simp only [State.pushElement]; split <;> simp
@[simp] theorem State.pushElement_oewsel : (s.pushElement x).oewsel = s.oewsel := by
  simp only [State.pushElement]; split <;> simp
@[simp] theorem State.pushElement_soff : (s.pushElement x).soff = s.soff := by
  simp only [State.pushElement]; split <;> simp
@[simp] theorem State.pushElement_toff : (s.pushElement x).toff = s.toff := by
  simp only [State.pushElement]; split <;> simp
@[simp] theorem State.pushElement_cap : (s.pushElement x).cap = s.cap := by
  simp only [State.pushElement]; split <;> simp
@[simp] theorem State.pushElement_nlen : (s.pushElement x).nlen = s.nlen := by
  simp only [State.pushElement]; split <;> simp
@[simp] theorem State.pushElement_resid : (s.pushElement x).resid = s.resid := by
  simp only [State.pushElement]; split <;> simp
@[simp] theorem State.pushElement_depth : (s.pushElement x).depth = s.depth := by
  simp only [State.pushElement]; split <;> simp
@[simp] theorem State.pushElement_termWritten : (s.pushElement x).termWritten = s.termWritten := by
  simp only [State.pushElement]; split <;> simp
@[simp] theorem State.pushElement_staleDraw : (s.pushElement x).staleDraw = s.staleDraw := by
  simp only [State.pushElement]; split <;> simp
@[simp] theorem State.pushElement_port : (s.pushElement x).port = s.port := by
  simp only [State.pushElement]; split <;> simp
@[simp] theorem State.pushElement_reply : (s.pushElement x).reply = s.reply := by
  simp only [State.pushElement]; split <;> simp

@[simp] theorem State.pushElement_icnt : (s.pushElement x).icnt = s.icnt + 1 := by
  simp only [State.pushElement]; split <;> simp

@[simp] theorem State.emitPending_active : s.emitPending.active = s.active := by
  simp only [State.emitPending]; split <;> rfl
@[simp] theorem State.emitPending_done : s.emitPending.done = s.done := by
  simp only [State.emitPending]; split <;> rfl
@[simp] theorem State.emitPending_err : s.emitPending.err = s.err := by
  simp only [State.emitPending]; split <;> rfl
@[simp] theorem State.emitPending_ecode : s.emitPending.ecode = s.ecode := by
  simp only [State.emitPending]; split <;> rfl
@[simp] theorem State.emitPending_mode : s.emitPending.mode = s.mode := by
  simp only [State.emitPending]; split <;> rfl
@[simp] theorem State.emitPending_rvalid : s.emitPending.rvalid = s.rvalid := by
  simp only [State.emitPending]; split <;> rfl
@[simp] theorem State.emitPending_sw : s.emitPending.sw = s.sw := by
  simp only [State.emitPending]; split <;> rfl
@[simp] theorem State.emitPending_tw : s.emitPending.tw = s.tw := by
  simp only [State.emitPending]; split <;> rfl
@[simp] theorem State.emitPending_oewsel : s.emitPending.oewsel = s.oewsel := by
  simp only [State.emitPending]; split <;> rfl
@[simp] theorem State.emitPending_soff : s.emitPending.soff = s.soff := by
  simp only [State.emitPending]; split <;> rfl
@[simp] theorem State.emitPending_toff : s.emitPending.toff = s.toff := by
  simp only [State.emitPending]; split <;> rfl
@[simp] theorem State.emitPending_cap : s.emitPending.cap = s.cap := by
  simp only [State.emitPending]; split <;> rfl
@[simp] theorem State.emitPending_nlen : s.emitPending.nlen = s.nlen := by
  simp only [State.emitPending]; split <;> rfl
@[simp] theorem State.emitPending_resid : s.emitPending.resid = s.resid := by
  simp only [State.emitPending]; split <;> rfl
@[simp] theorem State.emitPending_accRest : s.emitPending.accRest = s.accRest := by
  simp only [State.emitPending]; split <;> rfl
@[simp] theorem State.emitPending_accOff : s.emitPending.accOff = s.accOff := by
  simp only [State.emitPending]; split <;> rfl
@[simp] theorem State.emitPending_icnt : s.emitPending.icnt = s.icnt := by
  simp only [State.emitPending]; split <;> rfl
@[simp] theorem State.emitPending_depth : s.emitPending.depth = s.depth := by
  simp only [State.emitPending]; split <;> rfl
@[simp] theorem State.emitPending_accAny : s.emitPending.accAny = s.accAny := by
  simp only [State.emitPending]; split <;> rfl
@[simp] theorem State.emitPending_outAny : s.emitPending.outAny = s.outAny := by
  simp only [State.emitPending]; split <;> rfl
@[simp] theorem State.emitPending_termWritten : s.emitPending.termWritten = s.termWritten := by
  simp only [State.emitPending]; split <;> rfl
@[simp] theorem State.emitPending_staleDraw : s.emitPending.staleDraw = s.staleDraw := by
  simp only [State.emitPending]; split <;> rfl
@[simp] theorem State.emitPending_port : s.emitPending.port = s.port := by
  simp only [State.emitPending]; split <;> rfl
@[simp] theorem State.emitPending_reply : s.emitPending.reply = s.reply := by
  simp only [State.emitPending]; split <;> rfl

end

/-! ### An element with room in the buffer -/

/-- The test for the end of a decode leaves every field that the loop of PUSH reads but `outAny`. -/
theorem State.takeElement_eq (x : Elem) (s : State) :
    let u := if s.unitOutsideImage x then s.leaveImage else s
    s.takeElement x =
      pushLoop (inputValue s.sw s.soff x) (!elemInRange s.sw s.soff x) (s.accOff.toNat + s.sw.toNat)
        (s.accOff.toNat + s.sw.toNat) s.accRest.toNat s.accAny u := by
  simp only [State.takeElement]; split <;> rfl

/-- The input value has SW bits (R103). -/
theorem inputValue_lt (sw : Width) (soff x : Elem) : inputValue sw soff x < 2 ^ sw.toNat := by
  have hpos : (0 : Int) < ((2 ^ sw.toNat : Nat) : Int) := by exact_mod_cast Nat.two_pow_pos _
  have h0 := Int.emod_nonneg ((x.toNat : Int) - soff.toNat) hpos.ne'
  have h1 := Int.emod_lt_of_pos ((x.toNat : Int) - soff.toNat) hpos
  simp only [inputValue]
  omega

/-- For an element in range the input value is the plain difference (R103). -/
theorem inputValue_of_inRange {sw : Width} {soff x : Elem} (h : elemInRange sw soff x = true) :
    inputValue sw soff x = x.toNat - soff.toNat := by
  simp only [elemInRange, decide_eq_true_eq] at h
  simp only [inputValue]
  rw [Int.emod_eq_of_lt (by omega) (by omega)]
  omega

end Sys2Proof.Machine
end

