-- ==== Sys2Proof/Laws/Element.lean ====
section
/-! SUPPORT. The element step, said once: everything that taking an element does when the session's buffer has room. -/

namespace Sys2Proof.Machine

theorem cfgLegal_iff (sw tw : Width) (oewsel : BitVec 1) :
    cfgLegal sw tw oewsel = true ↔
      1 ≤ sw.toNat ∧ sw.toNat ≤ 16 ∧ 1 ≤ tw.toNat ∧ tw.toNat ≤ oewOf oewsel := by
  unfold cfgLegal; rw [decide_eq_true_eq]

theorem elemInRange_iff (sw : Width) (soff x : Elem) :
    elemInRange sw soff x = true ↔ soff.toNat ≤ x.toNat ∧ x.toNat < soff.toNat + 2 ^ sw.toNat := by
  simp [elemInRange]

/-- The input value over the naturals: 2^16 is a multiple of 2^SW (R103). -/
theorem inputValue_eq_mod {sw : Width} (soff x : Elem) (h : sw.toNat ≤ 16) :
    inputValue sw soff x = (x.toNat + 2 ^ 16 - soff.toNat) % 2 ^ sw.toNat := by
  have hs := soff.isLt
  have hsplit : (2 ^ 16 : Nat) = 2 ^ sw.toNat * 2 ^ (16 - sw.toNat) := by rw [← pow_add, Nat.add_sub_cancel' h]
  have hcast : ((x.toNat + 2 ^ 16 - soff.toNat : Nat) : Int) =
      ((x.toNat : Int) - soff.toNat) + ((2 ^ sw.toNat : Nat) : Int) * ((2 ^ (16 - sw.toNat) : Nat) : Int) := by
    rw [← Nat.cast_mul, ← hsplit]; omega
  rw [inputValue, ← Int.add_mul_emod_self_left _ _ ((2 ^ (16 - sw.toNat) : Nat) : Int), ← hcast, ← Int.natCast_emod]
  rfl

/-- A session whose widths are legal, whose accumulator holds fewer than TW bits at the top of its field, and whose buffer has
room: what `State.Inv` says of an open session that is not full (R37, R39). -/
structure State.HasRoom (s : State) : Prop where
  sw_pos : 1 ≤ s.sw.toNat
  sw_le : s.sw.toNat ≤ 16
  tw_pos : 1 ≤ s.tw.toNat
  tw_le : s.tw.toNat ≤ 16
  off_lt : s.accOff.toNat < s.tw.toNat
  rest_lt : s.accRest.toNat < 2 ^ s.tw.toNat
  rest_low : s.accRest.toNat % 2 ^ (s.tw.toNat - s.accOff.toNat) = 0
  room : s.oidx.toNat < s.cap.toNat

/-- Taking an element writes OIDX, OBUF, the accumulator and the model's own marks, and nothing else (R111). -/
theorem State.takeElement_frame (x : Elem) (s : State) :
    let t := s.takeElement x
    t = { s with
      oidx := t.oidx, obuf := t.obuf, accOff := t.accOff, accRest := t.accRest, accAny := t.accAny, outAny := t.outAny,
      draws := t.draws } := by
  have h := s.takeElement_eq x
  simp only at h ⊢
  rw [h, pushLoop_frame]
  split <;> rfl

/-- Where no output is any value, the loop of PUSH draws nothing. -/
theorem pushLoop_draws (value fuel off rest : Nat) (s : State) (h : s.outAny = false) :
    (pushLoop value false fuel off rest false s).draws = s.draws := by
  induction fuel generalizing off rest s with
  | zero => rfl
  | succ fuel ih =>
    simp only [pushLoop]
    split
    · split
      · simp [h]
      · rw [ih _ _ _ (by simpa using h)]; simp [h]
    · rfl

/-- Every entry that a PUSH does not write: it takes a free value if it is known, below CAP, and the PUSH shows the decode session
to lie outside the encoder image; else it stays. -/
def State.keptEntry (x : Elem) (s : State) (i : Nat) : Option Elem :=
  if s.unitOutsideImage x = true ∧ i < s.cap.toNat then
    (s.obuf.read i).map fun _ => Config.anyOutput (s.draws + i)
  else s.obuf.read i

/-- Everything that an element does when the buffer has room. Its `off = ACC_OFF + SW` bits, the pending ones first, spell the
number `bits`. With k whole groups in them and `room` entries left, min(k, room) entries are written, each a group of `bits` plus
TOFF modulo 2^OEW, or a free value where the spec leaves the output open. The bits left over are pending, or lost if the buffer
is full (R103 to R106, R111). -/
theorem State.takeElement_spec (x : Elem) {s : State} (hs : s.HasRoom) :
    let t := s.takeElement x
    let tw := s.tw.toNat
    let off := s.accOff.toNat + s.sw.toNat
    let elemAny := !elemInRange s.sw s.soff x
    let draw := if s.unitOutsideImage x then s.draws + s.cap.toNat else s.draws
    let k := off / tw
    let room := s.cap.toNat - s.oidx.toNat
    let bits := pendingBits tw s.accOff.toNat s.sw.toNat s.accRest.toNat (inputValue s.sw s.soff x)
    t.oidx.toNat = s.oidx.toNat + min k room ∧
    (k < room →
      t.accOff.toNat = off % tw ∧ t.accRest.toNat = bits % 2 ^ (off % tw) * 2 ^ (tw - off % tw) ∧
      t.accAny = (decide (off % tw ≠ 0) && ((decide (k = 0) && s.accAny) || elemAny))) ∧
    (room ≤ k → t.accOff.toNat = off - room * tw ∧ t.accRest = 0 ∧ t.accAny = false) ∧
    (∀ i, i < s.oidx.toNat ∨ s.oidx.toNat + min k room ≤ i → t.obuf.read i = s.keptEntry x i) ∧
    (∀ j, j < min k room → t.obuf.read (s.oidx.toNat + j) = some
      (if (decide (j = 0) && s.accAny) || elemAny || (s.unitOutsideImage x || s.outAny) then Config.anyOutput (draw + j)
       else outputValue s.toff s.oewsel (bits / 2 ^ (off - (j + 1) * tw) % 2 ^ tw))) := by
  intro t tw off elemAny draw k room bits
  obtain ⟨-, hsw, htw, htw16, hoff, hrest, hlow, hroom⟩ := hs
  let u := if s.unitOutsideImage x then s.leaveImage else s
  have hu : u.oidx = s.oidx ∧ u.cap = s.cap ∧ u.tw = s.tw ∧ u.toff = s.toff ∧ u.oewsel = s.oewsel ∧ u.draws = draw ∧
      u.outAny = (s.unitOutsideImage x || s.outAny) ∧ ∀ i, u.obuf.read i = s.keptEntry x i := by
    simp only [u, draw, State.keptEntry]
    by_cases h : s.unitOutsideImage x = true
    · simp only [h, if_true, true_and, Bool.true_or]
      exact ⟨rfl, rfl, rfl, rfl, rfl, rfl, rfl, fun i => Memory.read_redraw _ _ _ i⟩
    · simp [h]
  obtain ⟨huo, huc, hut, huf, hue, hud, hua, hur⟩ := hu
  have ht : t = pushLoop (inputValue s.sw s.soff x) elemAny off off s.accRest.toNat s.accAny u := s.takeElement_eq x
  obtain ⟨h1, h2, h3, h4⟩ := pushLoop_spec (inputValue s.sw s.soff x) elemAny off off s.accRest.toNat s.accAny u
    (by rwa [hut]) le_rfl (by rwa [huo, huc])
  rw [← ht, huo, huc, hut] at h1 h2
  rw [← ht, huo, huc, hut] at h3
  rw [← ht, huo, huc, hut, huf, hue, hud, hua] at h4
  have hv := inputValue_lt s.sw s.soff x
  have hmod : off % tw < tw := Nat.mod_lt _ htw
  refine ⟨?_, fun hk => ?_, fun hk => ?_, fun i hi => (h3 i hi).trans (hur i), fun j hj => ?_⟩
  · rcases Nat.lt_or_ge k room with hk | hk
    · rw [Nat.min_eq_left hk.le]; exact (h1 hk).1
    · rw [Nat.min_eq_right hk, (h2 hk).1]; omega
  · obtain ⟨-, hacc, hfold, hany⟩ := h1 hk
    have hbits : foldRest tw (if k = 0 then s.accRest.toNat else 0) (inputValue s.sw s.soff x) (off % tw) =
        bits % 2 ^ (off % tw) * 2 ^ (tw - off % tw) := by
      rcases Nat.lt_or_ge off tw with ho | ho
      · rw [if_pos (show k = 0 from Nat.div_eq_of_lt ho), Nat.mod_eq_of_lt ho]
        exact foldRest_short hoff.le ho hrest hlow hv
      · have hk1 : 1 ≤ off / tw := Nat.div_pos ho htw
        rw [if_neg (show k ≠ 0 from Nat.ne_of_gt hk1)]
        refine foldRest_long hmod.le ?_
        have hsum := Nat.mod_add_div off tw
        have : tw * 1 ≤ tw * (off / tw) := Nat.mul_le_mul_left _ hk1
        omega
    refine ⟨?_, ?_, hany⟩
    · rw [hacc, BitVec.toNat_ofNat, Nat.mod_eq_of_lt]
      change off % tw < 2 ^ 5
      omega
    · rw [hfold, BitVec.toNat_ofNat]
      refine Eq.trans (congrArg (· % 2 ^ 16) hbits) (Nat.mod_eq_of_lt ?_)
      calc bits % 2 ^ (off % tw) * 2 ^ (tw - off % tw)
          < 2 ^ (off % tw) * 2 ^ (tw - off % tw) :=
            Nat.mul_lt_mul_of_pos_right (Nat.mod_lt _ (Nat.two_pow_pos _)) (Nat.two_pow_pos _)
        _ = 2 ^ tw := by rw [← pow_add, Nat.add_sub_cancel' hmod.le]
        _ ≤ 2 ^ 16 := Nat.pow_le_pow_right (by norm_num) htw16
  · obtain ⟨-, hacc, hzero, hany⟩ := h2 hk
    refine ⟨?_, hzero, hany⟩
    have : 1 * tw ≤ room * tw := Nat.mul_le_mul_right _ (Nat.sub_pos_of_lt hroom)
    rw [hacc, BitVec.toNat_ofNat, Nat.mod_eq_of_lt]
    change off - room * tw < 2 ^ 5
    omega
  · have hj2 : (j + 1) * tw ≤ off := (Nat.le_div_iff_mul_le htw).mp (Nat.lt_of_lt_of_le hj (Nat.min_le_left _ _))
    have hgroup : groupValue tw (if j = 0 then s.accRest.toNat else 0) (inputValue s.sw s.soff x) (off - (j + 1) * tw) =
        bits / 2 ^ (off - (j + 1) * tw) % 2 ^ tw := by
      by_cases h0 : j = 0
      · subst h0
        simp only [if_true, Nat.zero_add, Nat.one_mul]
        exact firstGroup_eq hoff (by omega) hlow
      · rw [if_neg h0]
        exact laterGroup_eq hoff (by omega) hj2
    rw [h4 j hj, ← hgroup]

end Sys2Proof.Machine
end

