-- ==== Sys2Proof/Laws/Exec.lean ====
section
/-! SUPPORT. What performing a command can do, said once: it completes, either refused with one of its causes or with its effect.
Then the same of a step. -/

namespace Sys2Proof.Machine

/-- The conditions under which a command is not refused, and the state it then gives. -/
def Effect (i : Instr) (s t : State) : Prop :=
  match i with
  | .nop => t = s
  | .cfgw sw tw oewsel => s.active = false ∧ cfgLegal sw tw oewsel = true ∧ t = s.setWidths sw tw oewsel
  | .cfgso imm => s.active = false ∧ t = { s with soff := imm }
  | .cfgto imm => s.active = false ∧ t = { s with toff := imm }
  | .gstart cap =>
    s.active = false ∧ cfgLegal s.sw s.tw s.oewsel = true ∧ cap.toNat ≤ s.depth.toNat ∧ t = s.sessionInit .gen cap 0
  | .estart n =>
    s.active = false ∧ encodeCapacity n.toNat ≤ s.depth.toNat ∧
      t = (s.loadPreset 8 14 1 0 dataBase).sessionInit .enc (BitVec.ofNat 28 (encodeCapacity n.toNat)) n
  | .dterm u => s.active = false ∧ t = { s with resid := residueOf u, rvalid := true }
  | .dstart l =>
    s.active = false ∧ s.rvalid = true ∧ 0 ≤ decodeCount s.resid l.toNat ∧
      decodeCount s.resid l.toNat ≤ (s.depth.toNat : Int) ∧ t = s.startDecode (decodeCount s.resid l.toNat).toNat l
  | .push x => s.active = true ∧ t = s.pushElement x
  | .flush => s.active = true ∧ t = s.emitPending.endSession
  | .eterm =>
    s.active = false ∧ s.mode = .enc ∧ s.done = true ∧ s.icnt.toNat = s.nlen.toNat ∧ t = s.writeTerminator
  | .abort => t = { s with active := false, done := false, mode := .none, rvalid := false }
  | .clrerr => t = s.clearError

/-- Every command completes (R115, R200). -/
theorem exec_next (i : Instr) (s : State) : ∃ t, exec i s = .next t := by
  cases i <;> exact ⟨_, rfl⟩

/-- A command gives its effect, or it is refused with a cause other than E_ILLEGAL; NOP, ABORT and CLRERR are never refused
(R201, R203). -/
theorem exec_cases {i : Instr} {s t : State} (h : exec i s = .next t) :
    (∃ c, c ≠ Cause.illegal ∧ t = s.raise c ∧ i ≠ .nop ∧ i ≠ .abort ∧ i ≠ .clrerr) ∨ Effect i s t := by
  cases i with
  | nop => exact .inr (by simpa [exec, execNop, perform, Effect] using h.symm)
  | abort => exact .inr (by simpa [exec, execAbort, perform, Effect] using h.symm)
  | clrerr => exact .inr (by simpa [exec, execClrerr, perform, Effect] using h.symm)
  | _ =>
    simp only [exec, execCfgw, execCfgso, execCfgto, execGstart, execEstart, execDterm, execDstart, execPush, execFlush,
      execEterm] at h
    obtain ⟨c, hc, rfl⟩ | ⟨hc, rfl⟩ := perform_cases h
    · refine .inl ⟨c, ?_, rfl, by simp, by simp, by simp⟩
      rintro rfl
      simp only [firstCause_cons, firstCause_nil] at hc
      grind
    · right
      simp only [firstCause_cons, firstCause_nil] at hc
      simp only [Effect]
      grind

/-- A step waits, performs the command at the head of the port, refuses an illegal word, answers a read, or resets (R62, R90,
R231). -/
theorem step_cases {s t : State} (h : step s = .next t) :
    (s.port = [] ∧ t = s) ∨
    ∃ e rest, s.port = e :: rest ∧
      ((∃ w i, e = .command w ∧ decode w = .command i ∧ exec i { s with port := rest } = .next t) ∨
        (∃ w why, e = .command w ∧ decode w = .illegal why ∧ t = State.raise .illegal { s with port := rest }) ∨
        (∃ addr, e = .read addr ∧ t = State.hostRead addr { s with port := rest }) ∨
        (e = .reset ∧ t = State.hostReset { s with port := rest })) := by
  cases hp : s.port with
  | nil => exact .inl ⟨rfl, by simpa [step, takeEvent, hp] using h.symm⟩
  | cons e rest =>
    refine .inr ⟨e, rest, rfl, ?_⟩
    simp only [step, takeEvent, hp] at h
    cases e with
    | command w =>
      cases hd : decode w with
      | command i => exact .inl ⟨w, i, rfl, hd, by simpa [performWord, hd] using h⟩
      | illegal why => exact .inr (.inl ⟨w, why, rfl, hd, by simpa [performWord, hd, performIllegal] using h.symm⟩)
    | read addr => exact .inr (.inr (.inl ⟨addr, rfl, by simpa using h.symm⟩))
    | reset => exact .inr (.inr (.inr ⟨rfl, by simpa using h.symm⟩))

end Sys2Proof.Machine
end

