-- ==== Sys2Proof/Laws/PerInstr.lean ====
section
/-! SUPPORT. The family `OpField`: the word of each command carries the command's opcode, none of the reserved ones, in bits
31:28 (R81, R86, R87). -/

namespace Sys2Proof.Laws.OpField

/-- OP of a command (R86). -/
def opcode : Instr → BitVec 4
  | .nop => 0x0
  | .cfgw _ _ _ => 0x1
  | .cfgso _ => 0x2
  | .cfgto _ => 0x3
  | .gstart _ => 0x4
  | .estart _ => 0x5
  | .dterm _ => 0x6
  | .dstart _ => 0x7
  | .push _ => 0x8
  | .flush => 0x9
  | .eterm => 0xA
  | .abort => 0xB
  | .clrerr => 0xC

/-- The word of the command has the command's OP in bits 31:28, and OP is not one of the reserved 0xD, 0xE, 0xF (R81, R87). -/
def Statement (i : Instr) : Prop := (encode i).field 28 4 = opcode i ∧ (opcode i).toNat ≤ 0xC

theorem nop : Statement .nop := ⟨encodeN_op _, by decide⟩
theorem cfgw (sw tw : Width) (oewsel : BitVec 1) : Statement (.cfgw sw tw oewsel) :=
  ⟨encodeW_op sw tw oewsel, by simp [opcode]⟩
theorem cfgso (imm : Elem) : Statement (.cfgso imm) := ⟨encodeH_op _ imm, by simp [opcode]⟩
theorem cfgto (imm : Elem) : Statement (.cfgto imm) := ⟨encodeH_op _ imm, by simp [opcode]⟩
theorem gstart (cap : Count) : Statement (.gstart cap) := ⟨encodeL_op _ cap, by simp [opcode]⟩
theorem estart (n : Count) : Statement (.estart n) := ⟨encodeL_op _ n, by simp [opcode]⟩
theorem dterm (t : Elem) : Statement (.dterm t) := ⟨encodeH_op _ t, by simp [opcode]⟩
theorem dstart (l : Count) : Statement (.dstart l) := ⟨encodeL_op _ l, by simp [opcode]⟩
theorem push (x : Elem) : Statement (.push x) := ⟨encodeH_op _ x, by simp [opcode]⟩
theorem flush : Statement .flush := ⟨encodeN_op _, by decide⟩
theorem eterm : Statement .eterm := ⟨encodeN_op _, by decide⟩
theorem abort : Statement .abort := ⟨encodeN_op _, by decide⟩
theorem clrerr : Statement .clrerr := ⟨encodeN_op _, by decide⟩

end Sys2Proof.Laws.OpField
end

