-- ==== Sys2Proof/Laws/Read.lean ====
section
/-! SUPPORT. The read port: which word an address gives (R61, R68), and that the answer does not depend on the host's own side. -/

namespace Sys2Proof.Machine

/-- The output buffer's window starts at 0x1000_0000: the addresses whose bits 31:28 are 1. -/
theorem window_iff (addr : Word) :
    addr.extractLsb' 28 4 = 1 ↔ 0x10000000 ≤ addr.toNat ∧ addr.toNat < 0x20000000 := by
  have := addr.isLt
  rw [← BitVec.toNat_inj, BitVec.extractLsb'_toNat, Nat.shiftRight_eq_div_pow]
  simp; omega

theorem windowIndex_toNat (addr : Word) : (addr.extractLsb' 0 28).toNat = addr.toNat % 0x10000000 := by
  rw [BitVec.extractLsb'_toNat]; simp

/-- Below the output buffer's window an address gives a register, or 0 (R61). -/
theorem State.readWord_register (s : State) {addr : Word} (h : addr.toNat < 0x10000000) :
    s.readWord addr = s.registerWord addr.toNat :=
  if_neg fun c => by have := (window_iff addr).mp c.1; omega

/-- In the output buffer's window an address gives its entry, zero-extended (R61). -/
theorem State.readWord_entry (s : State) {addr : Word} {i : Nat} (ha : addr.toNat = 0x10000000 + i)
    (hi : i < s.depth.toNat) : s.readWord addr = (s.entry i).setWidth 32 := by
  have hd := s.depth.isLt
  have hidx : (addr.extractLsb' 0 28).toNat = i := by rw [windowIndex_toNat, ha]; omega
  have hwin : addr.extractLsb' 28 4 = 1 := (window_iff addr).mpr (by omega)
  simp only [State.readWord, hidx, hwin, hi, and_self, if_true]

/-- An address that names no register gives 0 (R61). -/
theorem State.registerWord_unmapped (s : State) {a : Nat} (h : 0xB < a) : s.registerWord a = 0 := by
  obtain ⟨b, rfl⟩ : ∃ b, a = b + 12 := ⟨a - 12, by omega⟩
  rfl

/-- Above the output buffer's entries every address gives 0 (R61). -/
theorem State.readWord_beyond (s : State) {addr : Word} (h : 0x10000000 + s.depth.toNat ≤ addr.toNat) :
    s.readWord addr = 0 := by
  have hneg : ¬ (addr.extractLsb' 28 4 = 1 ∧ (addr.extractLsb' 0 28).toNat < s.depth.toNat) := by
    rw [window_iff, windowIndex_toNat]; omega
  rw [← s.registerWord_unmapped (a := addr.toNat) (by omega)]
  exact if_neg hneg

/-- A state that differs in the host's side alone, its events and its last reply, reads the same. -/
@[simp] theorem State.readWord_hostSide (s : State) (es : List HostEvent) (r : Option Word) (addr : Word) :
    State.readWord { s with port := es, reply := r } addr = s.readWord addr := rfl

end Sys2Proof.Machine
end

