-- ==== Sys2Proof/Laws/Run.lean ====
section
/-! SUPPORT. What performing a word and performing a list in order can do: both complete, and lists compose. -/

namespace Sys2Proof.Machine

variable {α : Type} {act : α → State → Host.Outcome State Fault Refusal}

@[simp] theorem performAll_nil (s : State) : performAll act [] s = .next s := rfl

theorem performAll_cons_next {a : α} {s t : State} (h : act a s = .next t) (rest : List α) :
    performAll act (a :: rest) s = performAll act rest t := by simp only [performAll, h]

theorem performAll_append_next {xs : List α} {s t : State} (h : performAll act xs s = .next t) (ys : List α) :
    performAll act (xs ++ ys) s = performAll act ys t := by
  induction xs generalizing s with
  | nil => cases h; rfl
  | cons x xs ih =>
    simp only [List.cons_append, performAll] at h ⊢
    split at h
    · exact ih h
    · cases h
    · cases h

/-- Where every act completes, so does the list of them. -/
theorem performAll_next (hact : ∀ a s, ∃ t, act a s = .next t) (xs : List α) (s : State) :
    ∃ t, performAll act xs s = .next t := by
  induction xs generalizing s with
  | nil => exact ⟨s, rfl⟩
  | cons x xs ih =>
    obtain ⟨t, ht⟩ := hact x s
    rw [performAll_cons_next ht]
    exact ih t

theorem performWord_command {w : Word} {i : Instr} (h : decode w = .command i) (s : State) :
    performWord w s = exec i s := by simp only [performWord, h]

theorem performWord_illegal {w : Word} {why : IllegalWord} (h : decode w = .illegal why) (s : State) :
    performWord w s = .next (s.raise .illegal) := by simp only [performWord, h, performIllegal]

/-- Every word completes, legal or not (R90, R115). -/
theorem performWord_next (w : Word) (s : State) : ∃ t, performWord w s = .next t := by
  cases h : decode w with
  | command i => rw [performWord_command h]; exact exec_next i s
  | illegal why => exact ⟨_, performWord_illegal h s⟩

end Sys2Proof.Machine
end

