-- ==== Sys2Proof/Machine/Assembler.lean ====
section
/-! DEFINITION. The assembler's text (30_encoding.md R92, R93): one command or pseudo-instruction a line, `;` starting a comment,
numbers in decimal or 0x hexadecimal. Blanks may stand between any two tokens, mnemonics are in capitals, and `_` may separate
the digits of a number as in R7 (log 15). -/

namespace Sys2Proof.Machine

/-- A token of an assembler line. -/
inductive Token where
  | word (letters : List Char)
  | number (n : Nat)
  | comma
  | colon
  deriving DecidableEq, Repr

/-- The value of a digit in a base, if the character is one. -/
def digitValue (base : Nat) (c : Char) : Option Nat :=
  let v :=
    if '0' ≤ c ∧ c ≤ '9' then c.toNat - '0'.toNat
    else if 'A' ≤ c ∧ c ≤ 'F' then c.toNat - 'A'.toNat + 10
    else if 'a' ≤ c ∧ c ≤ 'f' then c.toNat - 'a'.toNat + 10
    else base
  if v < base then some v else none

/-- The number that digits spell after `acc`, `_` being a separator. -/
def digitsFrom (base acc : Nat) : List Char → Option Nat
  | [] => some acc
  | '_' :: cs => digitsFrom base acc cs
  | c :: cs => (digitValue base c).bind fun d => digitsFrom base (acc * base + d) cs

/-- A numeral: `0x` and hexadecimal digits, or decimal digits (R92). The first digit is no separator. -/
def numeral : List Char → Option Nat
  | '0' :: 'x' :: c :: cs => (digitValue 16 c).bind fun d => digitsFrom 16 d cs
  | c :: cs => (digitValue 10 c).bind fun d => digitsFrom 10 d cs
  | [] => none

/-- A lexeme as a token: a numeral if it starts with a digit, else a word of capital letters. -/
def lexemeToken (cs : List Char) : Option Token :=
  if (cs.head?.bind (digitValue 10)).isSome then (numeral cs).map .number
  else if cs.all fun c => decide ('A' ≤ c ∧ c ≤ 'Z') then some (.word cs)
  else none

/-- The pending lexeme, if there is one, before the tokens that follow it. -/
def closeLexeme (pending : List Char) (rest : Option (List Token)) : Option (List Token) :=
  if pending.isEmpty then rest
  else (lexemeToken pending).bind fun t => rest.map (t :: ·)

/-- The tokens of a line up to its comment; `pending` holds the characters of the lexeme being read. -/
def tokensFrom (pending : List Char) : List Char → Option (List Token)
  | [] => closeLexeme pending (some [])
  | ';' :: _ => closeLexeme pending (some [])
  | ' ' :: cs => closeLexeme pending (tokensFrom [] cs)
  | '\t' :: cs => closeLexeme pending (tokensFrom [] cs)
  | ',' :: cs => closeLexeme pending ((tokensFrom [] cs).map (.comma :: ·))
  | ':' :: cs => closeLexeme pending ((tokensFrom [] cs).map (.colon :: ·))
  | c :: cs => tokensFrom (pending ++ [c]) cs

/-- The numbers after the first of a comma-separated list. -/
def moreNumbers : List Token → Option (List Nat)
  | [] => some []
  | .comma :: .number n :: ts => (moreNumbers ts).map (n :: ·)
  | _ => none

/-- A comma-separated list of numbers, which may be empty. -/
def numberList : List Token → Option (List Nat)
  | [] => some []
  | .number n :: ts => (moreNumbers ts).map (n :: ·)
  | _ => none

/-- A list split into all but its last element, and that element. -/
def splitLast : List Nat → Option (List Nat × Nat)
  | [] => none
  | [t] => some ([], t)
  | u :: us => (splitLast us).map fun p => (u :: p.1, p.2)

/-- A mnemonic with its list of operands (R92, R93). -/
def lineOf (mnemonic : String) (operands : List Nat) : Option SourceLine :=
  match mnemonic, operands with
  | "NOP", [] => some (.command .nop)
  | "CFGW", [sw, tw, oew] => some (.command (.cfgw sw tw oew))
  | "CFGSO", [imm] => some (.command (.cfgso imm))
  | "CFGTO", [imm] => some (.command (.cfgto imm))
  | "GSTART", [cap] => some (.command (.gstart cap))
  | "ESTART", [n] => some (.command (.estart n))
  | "DTERM", [t] => some (.command (.dterm t))
  | "DSTART", [l] => some (.command (.dstart l))
  | "PUSH", [x] => some (.command (.push x))
  | "FLUSH", [] => some (.command .flush)
  | "ETERM", [] => some (.command .eterm)
  | "ABORT", [] => some (.command .abort)
  | "CLRERR", [] => some (.command .clrerr)
  | "CONFIG", [sw, tw, oew, soff, toff] => some (.config sw tw oew soff toff)
  | "ENCODE", bytes => some (.encode bytes)
  | "DECODE", operands => (splitLast operands).map fun p => .decode p.1 p.2
  | "RECOVER", [] => some .recover
  | _, _ => none

/-- A line of tokens (R92, R93); REALIGN alone puts a colon after its first operand. DESIGN CHOICE (log 19): `REALIGN cap:` with no
element is a line, and stands for GSTART and FLUSH; R93 says what an empty list means only for ENCODE and DECODE. -/
def parseTokens : List Token → Option SourceLine
  | [] => some .blank
  | .word ['R', 'E', 'A', 'L', 'I', 'G', 'N'] :: .number cap :: .colon :: ts =>
    (numberList ts).map (.realign cap)
  | .word w :: ts => (numberList ts).bind (lineOf (String.ofList w))
  | _ => none

/-- The source line that a line of text writes, if it writes one. -/
def parseLine (text : String) : Option SourceLine := (tokensFrom [] text.toList).bind parseTokens

/-- The command words of a line of text: none is an assembly error (R92). -/
def assembleText (text : String) : Option (List Word) :=
  ((parseLine text).bind assembleLine).map fun is => is.map encode

end Sys2Proof.Machine
end

