-- ==== Sys2Proof/Tests/Slice0.lean ====
section
/-! SUPPORT. Tests: the well-formedness smoke, decoding of words written out bit by bit from the formats, one step per command on
the spec's vectors (95_test_vectors.md, with OBUF_DEPTH = 64), and a witness for the hypotheses of each obligation. -/

namespace Sys2Proof.Tests

open Sys2Proof Sys2Proof.Machine

/-! ## Small states -/

/-- The reset state of a block with 64 entries. -/
def fresh : State := State.resetAt 64

/-- An open generic session of these widths and this capacity, with nothing pushed. -/
def session (sw tw : Width) (oewsel : BitVec 1) (cap : Count) : State :=
  { fresh with active := true, mode := .gen, sw := sw, tw := tw, oewsel := oewsel, cap := cap }

/-- V24 after `PUSH 7` with capacity 4: widths 3 to 5, the bits 111 pending. -/
def threeToFive : State := { session 3 5 0 4 with icnt := 1, accOff := 3, accRest := 0x1C }

/-- The widths 3 to 5 and no session. -/
def configured : State := { fresh with sw := 3, tw := 5 }

/-- The encode session that `ESTART 1` opens. -/
def encodeOne : State :=
  { fresh with
    active := true, mode := .enc, sw := 8, tw := 14, oewsel := 1, toff := 0x4E00, cap := 2, nlen := 1 }

/-- The finished encode session of n bytes, n below 8, with the capacity of n bytes. -/
def encoded (n : Nat) : State :=
  { encodeOne with
    active := false, done := true, cap := BitVec.ofNat 28 ((4 * n + 6) / 7 + 1), nlen := BitVec.ofNat 28 n,
    icnt := BitVec.ofNat 32 n }

/-- The decode session that `DTERM 0x3D02` and `DSTART 2` open. -/
def decodeTwo : State :=
  { fresh with
    active := true, mode := .dec, sw := 14, tw := 8, soff := 0x4E00, cap := 2, nlen := 2, resid := 2 }

/-- V67 after `PUSH 0x5E50`: one byte written, six bits 010000 pending. -/
def decodeSecond : State := { decodeTwo with icnt := 1, oidx := 1, obuf := [(0, 0x41)], accOff := 6, accRest := 0x40 }

/-- The state a command or a step gives, if it gives one. -/
def answer : Host.Outcome State Fault Refusal → Option State
  | .next t => some t
  | .fault _ => none
  | .refused _ => none

/-! ## Well-formedness: each check refuses an ill-formed term -/

theorem test_illegal_words_match_no_row :
    Word.legal 0xD0000000 = false ∧ Word.legal 0xE0000000 = false ∧ Word.legal 0xFFFFFFFF = false ∧
    Word.legal 0x00000001 = false ∧ Word.legal 0x98000000 = false ∧ Word.legal 0xA0000100 = false ∧
    Word.legal 0xB0000002 = false ∧ Word.legal 0xC8000000 = false ∧
    Word.legal 0x10020000 = false ∧ Word.legal 0x18000000 = false ∧ Word.legal 0x10002000 = false ∧
    Word.legal 0x10008000 = false ∧ Word.legal 0x10000020 = false ∧ Word.legal 0x10000080 = false ∧
    Word.legal 0x20010000 = false ∧ Word.legal 0x38000000 = false ∧ Word.legal 0x60010000 = false ∧
    Word.legal 0x88000000 = false := by decide

theorem test_legal_words_match_a_row :
    Word.legal 0x00000000 = true ∧ Word.legal 0x10011F1F = true ∧ Word.legal 0x2000FFFF = true ∧
    Word.legal 0x4FFFFFFF = true ∧ Word.legal 0x7FFFFFFF = true ∧ Word.legal 0xC0000000 = true := by decide

theorem test_operands_out_of_range_do_not_assemble :
    assembleLine (.command (.cfgw 32 8 8)) = none ∧ assembleLine (.command (.cfgw 8 32 8)) = none ∧
    assembleLine (.command (.cfgw 8 8 12)) = none ∧ assembleLine (.command (.cfgso 0x10000)) = none ∧
    assembleLine (.command (.cfgto 0x10000)) = none ∧ assembleLine (.command (.gstart 0x10000000)) = none ∧
    assembleLine (.command (.estart 0x10000000)) = none ∧ assembleLine (.command (.dterm 0x10000)) = none ∧
    assembleLine (.command (.dstart 0x10000000)) = none ∧ assembleLine (.command (.push 0x10000)) = none := by decide

theorem test_lists_out_of_range_do_not_assemble :
    assembleLine (.encode [0x41, 0x100]) = none ∧ assembleLine (.decode [0x10000] 0x3D01) = none ∧
    assembleLine (.decode [0x5E40] 0x10000) = none ∧ assembleLine (.realign 0x10000000 [1]) = none ∧
    assembleLine (.config 8 6 7 0 0x20) = none := by decide

/-- R93's expansions, the empty lists among them. -/
theorem test_pseudo_instructions_expand :
    assembleLine (.config 8 6 8 0 0x20) = some [.cfgw 8 6 0, .cfgso 0, .cfgto 0x20] ∧
    assembleLine (.realign 3 [0xABCD]) = some [.gstart 3, .push 0xABCD, .flush] ∧
    assembleLine (.encode []) = some [.estart 0, .flush, .eterm] ∧
    assembleLine (.encode [0x41]) = some [.estart 1, .push 0x41, .flush, .eterm] ∧
    assembleLine (.decode [] 0x3D00) = some [.dterm 0x3D00, .dstart 0, .flush] ∧
    assembleLine (.decode [0x5E40] 0x3D01) = some [.dterm 0x3D01, .dstart 1, .push 0x5E40, .flush] ∧
    assembleLine .recover = some [.abort, .clrerr] ∧ assembleLine .blank = some [] := by decide

/-- Lines of R92 and R93 as text. -/
theorem test_text_lines :
    parseLine "CFGW 8, 14, 16 ; the encoder's widths" = some (.command (.cfgw 8 14 16)) ∧
    parseLine "PUSH 0x5E40" = some (.command (.push 0x5E40)) ∧
    parseLine "REALIGN 3: 0xABCD, 7" = some (.realign 3 [0xABCD, 7]) ∧
    parseLine "DECODE 0x3D00" = some (.decode [] 0x3D00) ∧
    parseLine "ENCODE" = some (.encode []) ∧ parseLine "; nothing" = some .blank ∧
    parseLine "PUSH" = none ∧ parseLine "HALT" = none := by decide

/-! ## Decoding: words written out from the formats of R82 to R85 -/

/-- Format N: OP, then 28 zeros. -/
theorem test_decode_format_n :
    decode 0b0000_0000000000000000000000000000 = .command .nop ∧
    decode 0b1001_0000000000000000000000000000 = .command .flush ∧
    decode 0b1010_0000000000000000000000000000 = .command .eterm ∧
    decode 0b1011_0000000000000000000000000000 = .command .abort ∧
    decode 0b1100_0000000000000000000000000000 = .command .clrerr := by decide

/-- Format W: OP = 1, 11 zeros, OEWSEL, 3 zeros, TW, 3 zeros, SW. -/
theorem test_decode_format_w :
    decode 0b0001_00000000000_1_000_01110_000_01000 = .command (.cfgw 8 14 1) ∧
    decode 0b0001_00000000000_0_000_00001_000_10000 = .command (.cfgw 16 1 0) ∧
    decode 0b0001_00000000000_1_000_11111_000_00000 = .command (.cfgw 0 31 1) := by decide

/-- Format H: OP, 12 zeros, 16 bits of immediate. -/
theorem test_decode_format_h :
    decode 0b0010_000000000000_0100111000000000 = .command (.cfgso 0x4E00) ∧
    decode 0b0011_000000000000_1000000000000001 = .command (.cfgto 0x8001) ∧
    decode 0b0110_000000000000_0011110100000110 = .command (.dterm 0x3D06) ∧
    decode 0b1000_000000000000_1010101111001101 = .command (.push 0xABCD) := by decide

/-- Format L: OP, 28 bits of immediate. -/
theorem test_decode_format_l :
    decode 0b0100_1000000000000000000000000001 = .command (.gstart 0x8000001) ∧
    decode 0b0101_0000000000000000000001101110 = .command (.estart 110) ∧
    decode 0b0111_1111111111111111111111111111 = .command (.dstart 0xFFFFFFF) := by decide

theorem test_decode_refuses_by_name :
    decode 0xD0000000 = .illegal .reservedOpcode ∧ decode 0xE1234567 = .illegal .reservedOpcode ∧
    decode 0xF0000000 = .illegal .reservedOpcode ∧ decode 0x00000001 = .illegal .reservedBits ∧
    decode 0x10000828 = .illegal .reservedBits ∧ decode 0x80010000 = .illegal .reservedBits := by decide

theorem test_encode_samples :
    encode (.cfgw 8 14 1) = 0x10010E08 ∧ encode (.cfgto 0x4E00) = 0x30004E00 ∧ encode (.dterm 0x3CFF) = 0x60003CFF ∧
    encode (.estart 7) = 0x50000007 ∧ encode .eterm = 0xA0000000 := by decide

theorem test_table_word :
    decodeTableWord 32 0x8000ABCD = some (.push 0xABCD) ∧ decodeTableWord 32 0xD0000000 = none := by decide

/-! ## One step per command -/

/-- The first step from reset runs the word: V1's CFG, S5's RESID, and a refusal of GSTART (V12), DSTART (V56), PUSH (V19), ETERM
(V53), each with its STATUS. -/
theorem test_first_step :
    (answer (step (State.reset.withFetchWord 32 0x10010E08))).map State.cfgWord = some 0x00010E08 ∧
    (answer (step (State.reset.withFetchWord 32 0x60003CFF))).map (·.resid) = some 0xFFFF ∧
    (answer (step (State.reset.withFetchWord 32 0x40000004))).map State.statusWord = some 0x0000004C ∧
    (answer (step (State.reset.withFetchWord 32 0x70000001))).map State.statusWord = some 0x0000006C ∧
    (answer (step (State.reset.withFetchWord 32 0x80000001))).map State.statusWord = some 0x0000003C ∧
    (answer (step (State.reset.withFetchWord 32 0xA0000000))).map State.statusWord = some 0x0000006C := by decide

/-- V11 and V18: an illegal word, and E_CFG before E_CAP. -/
theorem test_illegal_word_and_priority :
    (answer (step (fresh.withFetchWord 32 0x10000828))).map State.statusWord = some 0x0000001C ∧
    (answer (step (fresh.withFetchWord 32 0x4FFFFFFF))).map State.statusWord = some 0x0000004C := by decide

theorem test_nop : answer (exec .nop threeToFive) = some threeToFive := by decide

/-- V2, V3. -/
theorem test_cfgw_writes :
    (answer (exec (.cfgw 16 16 1) fresh)).map State.cfgWord = some 0x00011010 ∧
    (answer (exec (.cfgw 1 1 0) fresh)).map State.cfgWord = some 0x00000101 := by decide

/-- V4 to V7, and V8's E_BUSY. -/
theorem test_cfgw_refused :
    (answer (exec (.cfgw 17 8 1) fresh)).map State.statusWord = some 0x0000004C ∧
    (answer (exec (.cfgw 8 0 0) fresh)).map State.statusWord = some 0x0000004C ∧
    (answer (exec (.cfgw 8 9 0) fresh)).map State.statusWord = some 0x0000004C ∧
    (answer (exec (.cfgw 0 14 1) fresh)).map State.cfgWord = some 0x00000000 ∧
    (answer (exec (.cfgw 4 4 0) (session 8 8 0 1))).map State.statusWord = some 0x00000129 := by decide

/-- V9. -/
theorem test_cfgso : (answer (exec (.cfgso 0xFFFF) fresh)).map (·.soff) = some 0xFFFF := by decide

/-- V10. -/
theorem test_cfgto :
    (answer (exec (.cfgto 5) encodeOne)).map (fun t => (t.toff, t.statusWord)) = some (0x4E00, 0x00000229) ∧
    (answer (exec (.cfgto 5) fresh)).map (·.toff) = some 5 := by decide

/-- V13, V15. -/
theorem test_gstart_opens :
    (answer (exec (.gstart 0) { fresh with sw := 8, tw := 8 })).map State.statusWord = some 0x00000105 ∧
    (answer (exec (.gstart 64) { fresh with sw := 8, tw := 8 })).map (fun t => (t.cap, t.statusWord)) =
      some (64, 0x00000101) := by decide

/-- V16, V17. -/
theorem test_gstart_refused :
    (answer (exec (.gstart 65) { fresh with sw := 8, tw := 8 })).map State.statusWord = some 0x0000005C ∧
    (answer (exec (.gstart 1) (session 8 8 0 1))).map State.statusWord = some 0x00000129 := by decide

/-- V47, V48. -/
theorem test_estart_opens :
    (answer (exec (.estart 0) fresh)).map (fun t => (t.cap, t.cfgWord, t.toff, t.soff, t.statusWord)) =
      some (1, 0x00010E08, 0x4E00, 0, 0x00000201) ∧
    (answer (exec (.estart 110) fresh)).map (fun t => (t.cap, t.nlen)) = some (64, 110) := by decide

/-- V49. -/
theorem test_estart_refused :
    (answer (exec (.estart 111) fresh)).map (fun t => (t.statusWord, t.cfgWord)) = some (0x0000005C, 0) := by decide

/-- V57, V58. -/
theorem test_dterm :
    (answer (exec (.dterm 0x3CFF) fresh)).map (fun t => (t.resid, t.statusWord)) = some (0xFFFF, 0x00000404) ∧
    (answer (exec (.dterm 0x3D00) encodeOne)).map State.statusWord = some 0x00000229 := by decide

/-- V59, V61, V62. -/
theorem test_dstart_opens :
    (answer (exec (.dstart 0) { fresh with rvalid := true })).map
      (fun t => (t.cap, t.cfgWord, t.soff, t.statusWord)) = some (0, 0x0000080E, 0x4E00, 0x00000305) ∧
    (answer (exec (.dstart 4) { fresh with rvalid := true })).map (fun t => (t.cap, t.nlen)) = some (7, 4) ∧
    (answer (exec (.dstart 5) { fresh with rvalid := true, resid := 1 })).map (·.cap) = some 8 := by decide

/-- V60, V63, V64: a count below 0 or above the depth. -/
theorem test_dstart_refused :
    (answer (exec (.dstart 0) { fresh with rvalid := true, resid := 3 })).map State.statusWord = some 0x0000045C ∧
    (answer (exec (.dstart 37) { fresh with rvalid := true })).map State.statusWord = some 0x0000045C ∧
    (answer (exec (.dstart 40) { fresh with rvalid := true, resid := 6 })).map State.statusWord = some 0x0000045C := by
  decide

/-- V24's second PUSH: 111 101 gives 11110 and leaves one bit. V26: the masked groups. R111's example with capacity 3. -/
theorem test_push_emits :
    (answer (exec (.push 5) threeToFive)).map (fun t => (t.obuf, t.oidx, t.accOff, t.accRest)) =
      some ([(0, 0x1E)], 1, 1, 0x10) ∧
    (answer (exec (.push 0xFF) (session 8 3 0 4))).map (fun t => (t.obuf, t.accOff, t.accRest)) =
      some ([(0, 7), (1, 7)], 2, 6) ∧
    (answer (exec (.push 0xABCD) (session 16 4 0 3))).map (fun t => (t.obuf, t.oidx, t.accOff, t.accRest)) =
      some ([(0, 0xA), (1, 0xB), (2, 0xC)], 3, 4, 0) := by decide

/-- R111's first example, V67's second PUSH, and V14: a full buffer. -/
theorem test_push_folds_and_discards :
    (answer (exec (.push 0x41) encodeOne)).map (fun t => (t.accOff, t.accRest, t.oidx, t.icnt)) =
      some (8, 0x1040, 0, 1) ∧
    (answer (exec (.push 0x6E00) decodeSecond)).map (fun t => (t.obuf, t.statusWord)) =
      some ([(0, 0x41), (1, 0x42)], 0x00000305) ∧
    (answer (exec (.push 5) (session 8 8 0 0))).map (fun t => (t.icnt, t.obuf)) = some (1, []) := by decide

/-- R112's example: 0x1040 + 0x4E00, as V34 has it. V25: 10010 is 0x12. -/
theorem test_flush_emits :
    (answer (exec .flush { encodeOne with icnt := 1, accOff := 8, accRest := 0x1040 })).map
      (fun t => (t.obuf, t.oidx, t.statusWord)) = some ([(0, 0x5E40)], 1, 0x00000202) ∧
    (answer (exec .flush { session 3 5 0 4 with accOff := 4, accRest := 0x12, oidx := 1, obuf := [(0, 0x1E)] })).map
      (fun t => (t.obuf, t.oidx, t.statusWord)) = some ([(0, 0x1E), (1, 0x12)], 2, 0x00000102) := by decide

/-- V20, and V31's last group with its offset narrowed to 16 bits. -/
theorem test_flush_refused_and_narrows :
    (answer (exec .flush fresh)).map State.statusWord = some 0x0000003C ∧
    (answer (exec .flush { session 5 16 1 2 with toff := 0xFFFF, accOff := 4, accRest := 0x2000 })).map (·.obuf) =
      some [(0, 0x1FFF)] := by decide

/-- V33, V34, V39: the terminators of 0, 1 and 6 bytes. -/
theorem test_eterm_writes :
    (answer (exec .eterm (encoded 0))).map (·.obuf) = some [(0, 0x3D00)] ∧
    (answer (exec .eterm (encoded 1))).map (·.obuf) = some [(1, 0x3D01)] ∧
    (answer (exec .eterm (encoded 6))).map (·.obuf) = some [(4, 0x3D06)] := by decide

/-- V50, V51. -/
theorem test_eterm_refused :
    (answer (exec .eterm encodeOne)).map State.statusWord = some 0x00000229 ∧
    (answer (exec .eterm { encoded 2 with icnt := 1 })).map State.statusWord = some 0x0000026A := by decide

/-- R161: `ESTART 7`, `PUSH 0x45`, `ABORT` leaves STATUS 0 and the accumulator. -/
theorem test_abort :
    (answer (exec .abort { encodeOne with cap := 5, nlen := 7, icnt := 1, accOff := 8, accRest := 0x1140 })).map
      (fun t => (t.statusWord, t.accOff, t.accRest, t.icnt)) = some (0x00000000, 8, 0x1140, 1) := by decide

/-- R162's example. -/
theorem test_clrerr :
    (answer (exec .clrerr { fresh with err := true, ecode := 4 })).map State.statusWord = some 0x00000004 := by decide

/-- V73's illegal word in a run that goes on: CLRERR clears what it recorded (R240). -/
theorem test_run_of_words :
    (answer (runWords [0xD0000000] fresh)).map State.statusWord = some 0x0000001C ∧
    (answer (runWords [0xD0000000, 0xC0000000] fresh)).map State.statusWord = some 0x00000004 := by decide

/-- C2, C3 and C4 as the source's routines: 8 to 3 bits of 0xFF, the empty decode, and V40. -/
theorem test_stream_routines :
    realign 8 3 0 0 0 4 [0xFF] = [7, 7, 6] ∧ decodeBytes [] 0x3D00 = [] ∧
    encodeUnits [0x45, 0x78, 0x61, 0x6D, 0x70, 0x6C, 0x65] = [0x5F5E, 0x5416, 0x83C1, 0x7A65, 0x3D00] ∧
    decodeBytes [0x5E50, 0x6E00] 0x3D02 = [0x41, 0x42] := by decide

/-! ## Witnesses: the hypotheses of each obligation met together, at the boundaries of each clause -/

/-- A state that has written no entry meets the invariant if its registers do. -/
theorem inv_of_unwritten {s : State} (hb : s.obuf = []) (ho : s.oidx = 0) (ht : s.termWritten = false)
    (h1 : s.ErrorRecordOk) (h2 : s.SessionFlagsOk) (h3 : s.WidthsOk) (h4 : s.CapacityOk) (h5 : s.AccumulatorOk)
    (h6 : s.PresetOk) : s.Inv :=
  ⟨h1, h2, h3, h4, h5, h6, by simp [hb], fun i _ => by rw [hb]; rfl,
    fun i h => by simp [State.sessionWrote, ho, ht] at h⟩

theorem threeToFive_inv : threeToFive.Inv := by
  refine inv_of_unwritten rfl rfl rfl ⟨?_, ?_⟩ ⟨?_, ?_⟩ ⟨?_, ?_⟩ ⟨?_, ?_, ?_⟩ ?_ ⟨?_, ?_, ?_, ?_⟩
  case refine_10 => unfold State.AccumulatorOk; decide
  all_goals decide

theorem session_inv : (session 16 4 0 3).Inv ∧ (session 16 4 0 4).Inv ∧ (session 16 4 0 5).Inv := by
  refine ⟨?_, ?_, ?_⟩
  all_goals
    refine inv_of_unwritten rfl rfl rfl ⟨?_, ?_⟩ ⟨?_, ?_⟩ ⟨?_, ?_⟩ ⟨?_, ?_, ?_⟩ ?_ ⟨?_, ?_, ?_, ?_⟩
    case refine_10 => unfold State.AccumulatorOk; decide
    all_goals decide

theorem fresh_inv : fresh.Inv := by
  refine inv_of_unwritten rfl rfl rfl ⟨?_, ?_⟩ ⟨?_, ?_⟩ ⟨?_, ?_⟩ ⟨?_, ?_, ?_⟩ ?_ ⟨?_, ?_, ?_, ?_⟩
  case refine_10 => unfold State.AccumulatorOk; decide
  all_goals decide

theorem decodeSecond_inv : decodeSecond.Inv := by
  refine ⟨⟨?_, ?_⟩, ⟨?_, ?_⟩, ⟨?_, ?_⟩, ⟨?_, ?_, ?_⟩, ?_, ⟨?_, ?_, ?_, ?_⟩, ?_, fun i h => ?_, fun i h => ?_⟩
  case refine_10 => unfold State.AccumulatorOk; decide
  case refine_16 =>
    have : i ≠ 0 := by rintro rfl; exact absurd h (by decide)
    simp [decodeSecond, Memory.read, this]
  case refine_17 =>
    have : i < 1 := by simpa [State.sessionWrote, decodeSecond, decodeTwo, fresh, State.resetAt] using h
    obtain rfl : i = 0 := by omega
    decide
  all_goals decide

theorem witness_encode_of_decode : decode 0x10010E08 = .command (.cfgw 8 14 1) := by decide

theorem witness_assembler_words :
    (AsmCommand.push 0x10000).inRange = false ∧ (AsmCommand.push 0xFFFF).inRange = true ∧
    (AsmCommand.gstart 0x10000000).inRange = false ∧ (AsmCommand.gstart 0x0FFFFFFF).inRange = true ∧
    (AsmCommand.cfgw 32 1 8).inRange = false ∧ (AsmCommand.cfgw 31 31 16).inRange = true := by decide

theorem witness_step_performs :
    (fresh.offerCommand 0x2000FFFF).port = .command 0x2000FFFF :: [] ∧
    decode 0x2000FFFF = .command (.cfgso 0xFFFF) := by decide

/-- OP at 0xD, 0xE and 0xF. -/
theorem witness_reserved_opcode :
    (fresh.offerCommand 0xD0000000).port = .command 0xD0000000 :: [] ∧
    Word.field 0xD0000000 28 4 = 0xD ∧ Word.field 0xE0000000 28 4 = 0xE ∧ Word.field 0xF0000000 28 4 = 0xF := by decide

/-- The lowest and the highest reserved bit of each format. -/
theorem witness_reserved_bits :
    (fresh.offerCommand 0x00000001).port = .command 0x00000001 :: [] ∧
    (Word.field 0x00000001 28 4 ∈ ([0x0, 0x9, 0xA, 0xB, 0xC] : List (BitVec 4)) ∧ Word.field 0x00000001 0 28 ≠ 0) ∧
    (Word.field 0xC8000000 28 4 ∈ ([0x0, 0x9, 0xA, 0xB, 0xC] : List (BitVec 4)) ∧ Word.field 0xC8000000 0 28 ≠ 0) ∧
    (Word.field 0x10020000 28 4 = 0x1 ∧ Word.field 0x10020000 17 11 ≠ 0) ∧
    (Word.field 0x10008000 28 4 = 0x1 ∧ Word.field 0x10008000 13 3 ≠ 0) ∧
    (Word.field 0x10000020 28 4 = 0x1 ∧ Word.field 0x10000020 5 3 ≠ 0) ∧
    (Word.field 0x20010000 28 4 ∈ ([0x2, 0x3, 0x6, 0x8] : List (BitVec 4)) ∧ Word.field 0x20010000 16 12 ≠ 0) ∧
    (Word.field 0x88000000 28 4 ∈ ([0x2, 0x3, 0x6, 0x8] : List (BitVec 4)) ∧ Word.field 0x88000000 16 12 ≠ 0) ∧
    Word.field 0x4FFFFFFF 28 4 ∈ ([0x4, 0x5, 0x7] : List (BitVec 4)) := by decide

/-- The first and the last entry, and the addresses on either side of each window. -/
theorem witness_read_map :
    0 < fresh.depth.toNat ∧ 63 < fresh.depth.toNat ∧
    (0xB < (0xC : Word).toNat ∧ (0xC : Word).toNat < 0x10000000) ∧
    (0xB < (0x0FFFFFFF : Word).toNat ∧ (0x0FFFFFFF : Word).toNat < 0x10000000) ∧
    0x10000000 + fresh.depth.toNat ≤ (0x10000040 : Word).toNat ∧
    0x10000000 + fresh.depth.toNat ≤ (0xFFFFFFFF : Word).toNat ∧
    State.port { fresh with port := [.read 0x10000000] } = .read 0x10000000 :: [] := by decide +kernel

/-- An entry below OIDX, the entry that ETERM wrote, and the entry at OIDX, which the session did not write. -/
theorem witness_session_entries :
    (0 < decodeSecond.oidx.toNat ∧ decodeSecond.obuf.read 0 = some 0x41) ∧
    (State.termWritten { encoded 1 with termWritten := true, obuf := [(1, 0x3D01)] } = true ∧
      1 + 1 = (encoded 1).cap.toNat ∧ Memory.read [(1, 0x3D01)] 1 = some 0x3D01) ∧
    ¬ (1 < decodeSecond.oidx.toNat ∨ (decodeSecond.termWritten = true ∧ 1 + 1 = decodeSecond.cap.toNat)) := by decide

theorem witness_reset_event : State.port { threeToFive with port := [.reset] } = .reset :: [] := by decide

theorem witness_waiting : fresh.port = [] := by decide

/-- Widths at each bound: SW 1 and 16, 0 and 17; TW 1 and OEW, 0 and OEW + 1. -/
theorem witness_cfgw :
    threeToFive.active = true ∧ fresh.active = false ∧
    (1 ≤ (1 : Width).toNat ∧ (16 : Width).toNat ≤ 16 ∧ 1 ≤ (1 : Width).toNat ∧
      ((8 : Width).toNat ≤ if (0 : BitVec 1) = 0 then 8 else 16) ∧
      ((16 : Width).toNat ≤ if (1 : BitVec 1) = 0 then 8 else 16)) ∧
    ¬ (1 ≤ (0 : Width).toNat) ∧ ¬ ((17 : Width).toNat ≤ 16) ∧
    ¬ ((9 : Width).toNat ≤ if (0 : BitVec 1) = 0 then 8 else 16) ∧
    ¬ ((17 : Width).toNat ≤ if (1 : BitVec 1) = 0 then 8 else 16) := by decide

/-- CFGSO, CFGTO, DTERM, FLUSH, PUSH, ETERM: with and without an open session. -/
theorem witness_active : threeToFive.active = true ∧ fresh.active = false := by decide

/-- The reset widths, and capacities at the depth and one above it. -/
theorem witness_gstart :
    ¬ (1 ≤ fresh.sw.toNat ∧ fresh.sw.toNat ≤ 16 ∧ 1 ≤ fresh.tw.toNat ∧
        fresh.tw.toNat ≤ if fresh.oewsel = 0 then 8 else 16) ∧
    (let s := { fresh with sw := 16, tw := 8 }
     s.active = false ∧ 1 ≤ s.sw.toNat ∧ s.sw.toNat ≤ 16 ∧ 1 ≤ s.tw.toNat ∧
       (s.tw.toNat ≤ if s.oewsel = 0 then 8 else 16) ∧
       s.depth.toNat < (65 : Count).toNat ∧ (64 : Count).toNat ≤ s.depth.toNat) := by decide

/-- V48 and V49: the longest encode that fits 64 entries, and one byte more. -/
theorem witness_estart :
    fresh.active = false ∧ (4 * (110 : Count).toNat + 6) / 7 + 1 ≤ fresh.depth.toNat ∧
    fresh.depth.toNat < (4 * (111 : Count).toNat + 6) / 7 + 1 := by decide

/-- Byte counts -1, 0, the depth and one above it, and RVALID = 0. -/
theorem witness_dstart :
    fresh.rvalid = false ∧
    Int.fdiv (((0 : Count).toNat : Int) - 1) 4 * 7 + 6 = -1 ∧
    Int.fdiv (((0 : Count).toNat : Int) - 1) 4 * 7 + 7 = 0 ∧
    Int.fdiv (((37 : Count).toNat : Int) - 1) 4 * 7 + 1 = (fresh.depth.toNat : Int) ∧
    Int.fdiv (((37 : Count).toNat : Int) - 1) 4 * 7 + 2 = (fresh.depth.toNat : Int) + 1 ∧
    State.active { fresh with rvalid := true, resid := 1 } = false ∧
    State.rvalid { fresh with rvalid := true, resid := 1 } = true := by decide

theorem witness_push_full :
    fresh.active = false ∧ (session 8 8 0 0).active = true ∧ (session 8 8 0 0).oidx = (session 8 8 0 0).cap := by decide

/-- The lowest and the highest element in range; the three bits of one more element complete one group of five with room for
four; four groups with room for three, four and five. Then a last unit with zero pad bits, and a pending bit of an out-of-range
element, which the element's PUSH takes into its first group or keeps. -/
theorem witness_push_emits :
    (threeToFive.Inv ∧ (session 16 4 0 3).Inv ∧ (session 16 4 0 4).Inv ∧ (session 16 4 0 5).Inv) ∧
    ∀ p ∈ ([(threeToFive, 0), (threeToFive, 7), (session 16 4 0 3, 0xABCD), (session 16 4 0 4, 0xABCD),
        (session 16 4 0 5, 0xFFFF)] : List (State × Elem)),
      p.1.active = true ∧ p.1.oidx ≠ p.1.cap ∧ p.1.soff.toNat ≤ p.2.toNat ∧
        p.2.toNat < p.1.soff.toNat + 2 ^ p.1.sw.toNat ∧ p.1.accAny = false ∧ p.1.outAny = false ∧
        p.1.mode ≠ .dec :=
  ⟨⟨threeToFive_inv, session_inv.1, session_inv.2.1, session_inv.2.2⟩, by decide⟩

theorem witness_push_last_unit :
    decodeSecond.Inv ∧ decodeSecond.active = true ∧ decodeSecond.oidx ≠ decodeSecond.cap ∧ decodeSecond.outAny = false ∧
    decodeSecond.soff.toNat ≤ (0x6E00 : Elem).toNat ∧
    (0x6E00 : Elem).toNat < decodeSecond.soff.toNat + 2 ^ decodeSecond.sw.toNat ∧
    decodeSecond.mode = .dec ∧ (decodeSecond.icnt + 1).toNat = decodeSecond.nlen.toNat ∧
    ((0x6E00 : Elem).toNat - 0x4E00) % 2 ^ (14 * decodeSecond.nlen.toNat - 8 * decodeSecond.cap.toNat) = 0 :=
  ⟨decodeSecond_inv, by decide⟩

theorem witness_push_pending_out_of_range :
    State.Inv { threeToFive with accAny := true } ∧ State.accAny { threeToFive with accAny := true } = true ∧
    threeToFive.tw.toNat ≤ threeToFive.accOff.toNat + threeToFive.sw.toNat ∧
    State.Inv { session 3 8 0 4 with accAny := true, accOff := 3 } ∧ 3 + (3 : Width).toNat < (8 : Width).toNat := by
  refine ⟨?_, by decide, by decide, ?_, by decide⟩
  all_goals
    refine inv_of_unwritten rfl rfl rfl ⟨?_, ?_⟩ ⟨?_, ?_⟩ ⟨?_, ?_⟩ ⟨?_, ?_, ?_⟩ ?_ ⟨?_, ?_, ?_, ?_⟩
    case refine_10 => unfold State.AccumulatorOk; decide
    all_goals decide

/-- Its two cases: more room than whole groups, and no more room than whole groups. -/
theorem witness_push_cases :
    (threeToFive.accOff.toNat + threeToFive.sw.toNat) / threeToFive.tw.toNat <
        threeToFive.cap.toNat - threeToFive.oidx.toNat ∧
    ∀ s ∈ [session 16 4 0 3, session 16 4 0 4],
      s.cap.toNat - s.oidx.toNat ≤ (s.accOff.toNat + s.sw.toNat) / s.tw.toNat := by decide

/-- A PUSH in and out of range, and one that shows a decode to lie outside the image: its bits must be at least 0x4E00. -/
theorem witness_push_every_element :
    threeToFive.Inv ∧ threeToFive.active = true ∧ threeToFive.oidx ≠ threeToFive.cap ∧
    threeToFive.mode ≠ .dec ∧ threeToFive.cap.toNat ≤ 4 ∧
    decodeSecond.Inv ∧ decodeSecond.mode = .dec ∧ decodeSecond.outAny = false ∧
    ¬ (0x4E00 ≤ (0x4DFF : Elem).toNat) ∧ ¬ ((0x8E00 : Elem).toNat ≤ 0x8DFF) :=
  ⟨threeToFive_inv, by decide, by decide, by decide, by decide, decodeSecond_inv, by decide⟩

/-- 8 is one above the range of threeToFive; its PUSH emits one entry and leaves a bit pending. With a bit of an out-of-range
element pending, a PUSH that completes its group, one that does not, and FLUSH. -/
theorem witness_out_of_range :
    threeToFive.Inv ∧ threeToFive.active = true ∧ threeToFive.oidx ≠ threeToFive.cap ∧ threeToFive.mode ≠ .dec ∧
    ¬ (threeToFive.soff.toNat ≤ (8 : Elem).toNat ∧
        (8 : Elem).toNat < threeToFive.soff.toNat + 2 ^ threeToFive.sw.toNat) ∧
    (∃ t, exec (.push 8) threeToFive = .next t ∧ threeToFive.oidx.toNat < t.oidx.toNat ∧ 0 < t.accOff.toNat ∧
      t.oidx ≠ t.cap) ∧
    (State.accAny { threeToFive with accAny := true } = true ∧ 0 < threeToFive.accOff.toNat ∧
      ∃ t, exec (.push 5) { threeToFive with accAny := true } = .next t ∧ threeToFive.oidx.toNat < t.oidx.toNat) ∧
    (∃ t, exec (.push 5) { threeToFive with accOff := 1, accRest := 0x10, accAny := true } = .next t ∧
      t.oidx = threeToFive.oidx) :=
  ⟨threeToFive_inv, by decide, by decide, by decide, by decide, ⟨_, rfl, by decide⟩, ⟨by decide, by decide, _, rfl, by decide⟩,
    ⟨_, rfl, by decide⟩⟩

/-- A unit on either side of 0x4E00..0x8DFF, and a last unit whose lowest pad bit is 1; then a session already known to be outside
the image. -/
theorem witness_decode_outside :
    decodeSecond.Inv ∧ decodeSecond.active = true ∧ decodeSecond.oidx ≠ decodeSecond.cap ∧ decodeSecond.mode = .dec ∧
    decodeSecond.outAny = false ∧
    ¬ (0x4E00 ≤ (0x4DFF : Elem).toNat) ∧ ¬ ((0x8E00 : Elem).toNat ≤ 0x8DFF) ∧
    ((decodeSecond.icnt + 1).toNat = decodeSecond.nlen.toNat ∧
      ((0x6E01 : Elem).toNat - 0x4E00) % 2 ^ (14 * decodeSecond.nlen.toNat - 8 * decodeSecond.cap.toNat) ≠ 0) ∧
    (0 < decodeSecond.cap.toNat ∧ decodeSecond.obuf.read 0 = some 0x41) ∧
    State.outAny { decodeSecond with outAny := true } = true ∧ 0 < decodeSecond.accOff.toNat :=
  ⟨decodeSecond_inv, by decide⟩

/-- No bit pending; a bit pending with a full buffer and with room. -/
theorem witness_flush :
    ((session 8 8 0 1).active = true ∧ (session 8 8 0 1).accOff = 0) ∧
    ((session 8 8 0 0).active = true ∧ (session 8 8 0 0).cap.toNat ≤ (session 8 8 0 0).oidx.toNat) ∧
    (threeToFive.active = true ∧ threeToFive.accOff ≠ 0 ∧ threeToFive.oidx.toNat < threeToFive.cap.toNat ∧
      threeToFive.accAny = false ∧ threeToFive.outAny = false) ∧
    threeToFive.Inv :=
  ⟨by decide, by decide, by decide, threeToFive_inv⟩

/-- The finished encode of one byte, and each of the three reasons to refuse. -/
theorem witness_eterm :
    ((encoded 1).active = false ∧ (encoded 1).mode = .enc ∧ (encoded 1).done = true ∧
      (encoded 1).icnt.toNat = (encoded 1).nlen.toNat ∧ 1 ≤ (encoded 1).cap.toNat) ∧
    ((encoded 0).mode = .enc ∧ (encoded 0).icnt.toNat = (encoded 0).nlen.toNat ∧ 1 ≤ (encoded 0).cap.toNat) ∧
    (fresh.active = false ∧ fresh.mode ≠ .enc) ∧ State.done { encoded 1 with done := false } = false ∧
    State.icnt { encoded 1 with icnt := 2 } ≠ 1 := by decide

/-- A word of NOP's, ABORT's and CLRERR's OP with its lowest or highest reserved bit set. -/
theorem witness_control_words :
    (Word.field 0x00000001 28 4 = 0x0 ∧ Word.field 0x00000001 0 28 ≠ 0) ∧
    (Word.field 0xB8000000 28 4 = 0xB ∧ Word.field 0xB8000000 0 28 ≠ 0) ∧
    (Word.field 0xC0000001 28 4 = 0xC ∧ Word.field 0xC0000001 0 28 ≠ 0) := by decide

/-- Each start command opening a session; a decode with the residue 7, and one whose unit count is not that of its byte count; ETERM; and a command that changes each mark. -/
theorem witness_session_marks :
    (∃ t, exec (.gstart 4) configured = .next t ∧ configured.active = false ∧ t.active = true) ∧
    (∃ t, exec (.estart 1) fresh = .next t ∧ fresh.active = false ∧ t.active = true) ∧
    (∃ t, exec (.dstart 4) { fresh with rvalid := true, resid := 7 } = .next t ∧ t.active = true ∧ t.outAny = true ∧
      6 < (7 : Elem).toNat ∧ (4 * t.cap.toNat + 6) / 7 = (4 : Count).toNat) ∧
    (∃ t, exec (.dstart 1) { fresh with rvalid := true } = .next t ∧ t.active = true ∧ t.outAny = true ∧
      (4 * t.cap.toNat + 6) / 7 ≠ (1 : Count).toNat) ∧
    (∃ t, exec .eterm (encoded 1) = .next t ∧ t ≠ (encoded 1).refusedWith 2 ∧ t ≠ (encoded 1).refusedWith 6 ∧
      t.termWritten ≠ (encoded 1).termWritten) ∧
    (∃ t, exec (.push 8) threeToFive = .next t ∧ t.accAny ≠ threeToFive.accAny) ∧
    (∃ t, exec (.push 0) decodeTwo = .next t ∧ t.outAny ≠ decodeTwo.outAny) ∧
    (∃ t, exec (.estart 1) fresh = .next t ∧ t.staleDraw ≠ fresh.staleDraw) := by
  refine ⟨⟨_, rfl, ?_⟩, ⟨_, rfl, ?_⟩, ⟨_, rfl, ?_⟩, ⟨_, rfl, ?_⟩, ⟨_, rfl, ?_⟩, ⟨_, rfl, ?_⟩, ⟨_, rfl, ?_⟩, ⟨_, rfl, ?_⟩⟩ <;> decide

/-- A command refused with the record clear, from a state without and one with an error; and one that is not refused. -/
theorem witness_refused :
    (∃ t, exec (.push 1) { fresh with err := false, ecode := 0 } = .next t ∧ t.err = true ∧ fresh.err = false ∧
      State.err { fresh with err := true, ecode := 4 } = true) ∧
    ∃ t, exec (.cfgso 1) { fresh with err := false, ecode := 0 } = .next t ∧ t.err = false ∧ Instr.cfgso 1 ≠ .clrerr :=
  ⟨⟨_, rfl, by decide⟩, _, rfl, by decide⟩

/-- An illegal word and a command on the port, then a read; the illegal word first, in the middle and last in a run. -/
theorem witness_run :
    State.port { fresh with port := [.command 0xD0000000, .command 0xC0000000, .read 0] } =
      [0xD0000000, 0xC0000000].map .command ++ [.read 0] ∧
    Word.legal 0xD0000000 = false ∧ decode 0xC0000000 = .command .clrerr ∧
    (∃ t, runWords [] fresh = .next t ∧ ∃ u, exec .clrerr t = .next u) ∧
    ∃ t, runWords [0xC0000000] fresh = .next t :=
  ⟨by decide, by decide, by decide, ⟨_, rfl, _, rfl⟩, _, rfl⟩

theorem witness_first_cause :
    ∃ t, exec (.push 1) { fresh with err := true, ecode := 4 } = .next t ∧ Instr.push 1 ≠ .clrerr :=
  ⟨_, rfl, by decide⟩

theorem witness_frozen : ∃ t, exec (.push 1) threeToFive = .next t ∧ threeToFive.active = true :=
  ⟨_, rfl, by decide⟩

/-- A writer of each register. -/
theorem witness_writers :
    (∃ t, exec (.cfgw 8 14 1) fresh = .next t ∧ t.sw ≠ fresh.sw ∧ t.tw ≠ fresh.tw ∧ t.oewsel ≠ fresh.oewsel) ∧
    (∃ t, exec (.cfgso 1) fresh = .next t ∧ t.soff ≠ fresh.soff) ∧
    (∃ t, exec (.cfgto 1) fresh = .next t ∧ t.toff ≠ fresh.toff) ∧
    (∃ t, exec (.estart 1) fresh = .next t ∧ t.cap ≠ fresh.cap ∧ t.nlen ≠ fresh.nlen ∧ t.mode ≠ fresh.mode ∧
      t.active ≠ fresh.active) ∧
    (∃ t, exec (.dterm 1) fresh = .next t ∧ t.resid ≠ fresh.resid) ∧
    (∃ t, exec (.push 5) threeToFive = .next t ∧ t.accRest ≠ threeToFive.accRest ∧ t.accOff ≠ threeToFive.accOff ∧
      t.icnt ≠ threeToFive.icnt ∧ t.oidx ≠ threeToFive.oidx ∧ t.obuf ≠ threeToFive.obuf) ∧
    (∃ t, exec .flush threeToFive = .next t ∧ t.done ≠ threeToFive.done) := by
  refine ⟨⟨_, rfl, ?_⟩, ⟨_, rfl, ?_⟩, ⟨_, rfl, ?_⟩, ⟨_, rfl, ?_⟩, ⟨_, rfl, ?_⟩, ⟨_, rfl, ?_⟩, ⟨_, rfl, ?_⟩⟩ <;> decide

/-- RVALID set by DTERM, cleared by DSTART and by ABORT, and a DSTART without it; a reset. -/
theorem witness_rvalid :
    (∃ t, exec (.dterm 0x3D00) fresh = .next t ∧ fresh.active = false ∧ t.rvalid = true ∧ fresh.rvalid = false) ∧
    (∃ t, exec (.dstart 4) { fresh with rvalid := true } = .next t ∧ t.active = true ∧ t.rvalid = false) ∧
    (∃ t, exec .abort { fresh with rvalid := true } = .next t ∧ t.rvalid = false) ∧
    (∃ t, exec (.dstart 4) fresh = .next t ∧ fresh.active = false ∧ fresh.rvalid = false) ∧
    (∃ t, step { fresh with rvalid := true, port := [.reset] } = .next t) := by
  refine ⟨⟨_, rfl, ?_⟩, ⟨_, rfl, ?_⟩, ⟨_, rfl, ?_⟩, ⟨_, rfl, ?_⟩, ⟨_, rfl⟩⟩ <;> decide

theorem witness_a_step : ∃ t, step (fresh.withFetchWord 32 0x10010E08) = .next t := ⟨_, rfl⟩

/-- An index at CAP, and one at the depth. -/
theorem witness_writes_below_capacity :
    threeToFive.Inv ∧ (∃ t, exec (.push 5) threeToFive = .next t ∧ t.cap.toNat ≤ 4 ∧ threeToFive.depth.toNat ≤ 64) :=
  ⟨threeToFive_inv, _, rfl, by decide⟩

theorem witness_emits_bounded : threeToFive.Inv ∧ threeToFive.active = true ∧ threeToFive.oidx ≠ threeToFive.cap :=
  ⟨threeToFive_inv, by decide⟩

theorem witness_invariant_kept :
    fresh.Inv ∧ (∃ t, step fresh = .next t) ∧ decodeSecond.Inv ∧ (∃ t, step decodeSecond = .next t) :=
  ⟨fresh_inv, ⟨_, rfl⟩, decodeSecond_inv, ⟨_, rfl⟩⟩

theorem witness_canonical : decodeSecond.obuf.wf ∧ ∃ t, step decodeSecond = .next t := ⟨by decide, _, rfl⟩

/-- A capacity at the depth, and elements at both ends of the range. -/
theorem witness_generic_session :
    configured.active = false ∧ cfgLegal configured.sw configured.tw configured.oewsel = true ∧
    (64 : Count).toNat ≤ configured.depth.toNat ∧
    ∀ x ∈ ([0, 7, 5] : List Elem),
      configured.soff.toNat ≤ x.toNat ∧ x.toNat < configured.soff.toNat + 2 ^ configured.sw.toNat :=
  ⟨rfl, rfl, Nat.le_refl _, by simp [configured, fresh, State.resetAt]⟩

/-- No byte, and bytes at both ends of their range. -/
theorem witness_encode :
    fresh.active = false ∧
    ∀ bytes ∈ ([[], [0x00, 0xFF]] : List (List Elem)),
      bytes.length < 2 ^ 28 ∧ encodeCapacity bytes.length ≤ fresh.depth.toNat ∧ bytes.length ≤ fresh.depth.toNat ∧
        ∀ b ∈ bytes, b.toNat < 0x100 := by
  simp [fresh, State.resetAt, encodeCapacity, ceilDiv]

/-- One byte has a data unit with six pad bits. -/
theorem witness_encoded_units :
    (∀ b ∈ ([0xFF] : List Elem), b.toNat < 0x100) ∧ (encodeUnits [0xFF]).getLast? = some 0x3D01 ∧
    (encodeUnits [0xFF]).dropLast.getLast? = some 0x8DC0 := ⟨by simp, by decide⟩

/-- No unit with the terminator 0x3D00, and V35's units. -/
theorem witness_decode :
    fresh.active = false ∧
    (([] : List Elem).length < 2 ^ 28 ∧ inImage [] 0x3D00 = true ∧ unitsCount [] 0x3D00 ≤ (fresh.depth.toNat : Int)) ∧
    inImage [0x5E50, 0x6E00] 0x3D02 = true ∧ unitsCount [0x5E50, 0x6E00] 0x3D02 ≤ (fresh.depth.toNat : Int) := by
  decide +kernel

/-- An open encode session whose next byte completes its group, and an open decode session. -/
def encodeSecond : State :=
  { encodeOne with cap := 3, nlen := 2, icnt := 1, accOff := 8, accRest := 0x1040 }

theorem encodeSecond_inv : encodeSecond.Inv := by
  refine inv_of_unwritten rfl rfl rfl ⟨?_, ?_⟩ ⟨?_, ?_⟩ ⟨?_, ?_⟩ ⟨?_, ?_, ?_⟩ ?_ ⟨?_, ?_, ?_, ?_⟩
  case refine_10 => unfold State.AccumulatorOk; decide
  all_goals decide

/-- In each preset a group that the element completes, and the second group of a unit. -/
theorem witness_preset_emits :
    (encodeSecond.Inv ∧ encodeSecond.active = true ∧ encodeSecond.oidx ≠ encodeSecond.cap ∧ encodeSecond.mode = .enc ∧
      encodeSecond.soff.toNat ≤ (0xFF : Elem).toNat ∧
      (0xFF : Elem).toNat < encodeSecond.soff.toNat + 2 ^ encodeSecond.sw.toNat ∧
      (0 + 1) * encodeSecond.tw.toNat ≤ encodeSecond.accOff.toNat + encodeSecond.sw.toNat) ∧
    (decodeSecond.Inv ∧ decodeSecond.active = true ∧ decodeSecond.oidx ≠ decodeSecond.cap ∧ decodeSecond.mode = .dec ∧
      decodeSecond.soff.toNat ≤ (0x8DFF : Elem).toNat ∧
      (0x8DFF : Elem).toNat < decodeSecond.soff.toNat + 2 ^ decodeSecond.sw.toNat ∧
      (1 + 1) * decodeSecond.tw.toNat ≤ decodeSecond.accOff.toNat + decodeSecond.sw.toNat) :=
  ⟨⟨encodeSecond_inv, by decide⟩, ⟨decodeSecond_inv, by decide⟩⟩

/-- Outside the image by each of its conditions: a terminator above and below its range, a unit count that fits no byte count, a unit
on either side of its range, a pad bit; with a byte count below 0, above the depth, 0 and within it. -/
theorem witness_decode_session_outside :
    fresh.active = false ∧ fresh.depth.toNat = 64 ∧
    (¬ ((0x3D07 : Elem).toNat ≤ 0x3D06) ∧ Int.fdiv (1 - 1) 4 * 7 + ((0x3D07 - 0x3D00 : Elem).toNat : Int) = 7) ∧
    (¬ (0x3D00 ≤ (0x3CFF : Elem).toNat) ∧ Int.fdiv (1 - 1) 4 * 7 + ((0x3CFF - 0x3D00 : Elem).toNat : Int) = 65535) ∧
    Int.fdiv (0 - 1) 4 * 7 + ((0x3D06 - 0x3D00 : Elem).toNat : Int) = -1 ∧
    (Int.fdiv (0 - 1) 4 * 7 + ((0x3D08 - 0x3D00 : Elem).toNat : Int) = 1 ∧ Int.fdiv (4 * 1 + 6) 7 ≠ 0) ∧
    (¬ (0x4E00 ≤ (0x4DFF : Elem).toNat) ∧ ¬ ((0x8E00 : Elem).toNat ≤ 0x8DFF)) ∧
    ((0x4E01 : Elem).toNat - 0x4E00) % 2 ^ (14 * 1 - 8 * 1 : Int).toNat ≠ 0 := by decide

theorem witness_image :
    (encodeUnits [0xFF] = [0x8DC0] ++ [0x3D01] ∧ inImage [0x8DC0] 0x3D01 = true) ∧
    (encodeUnits [] = [] ++ [0x3D00] ∧ inImage [] 0x3D00 = true) := by decide

theorem witness_launch : fresh.Launchable ∧ configured.Launchable := by decide

end Sys2Proof.Tests
end

/-! SUPPORT. The state that a command's effect gives, as a function, so that what the effects do to a register is one case split
over the commands. -/

namespace Sys2Proof.Machine

/-- The state that a command gives when it is not refused. -/
def effectState (i : Instr) (s : State) : State :=
  match i with
  | .nop => s
  | .cfgw sw tw oewsel => s.setWidths sw tw oewsel
  | .cfgso imm => { s with soff := imm }
  | .cfgto imm => { s with toff := imm }
  | .gstart cap => s.sessionInit .gen cap 0
  | .estart n => (s.loadPreset 8 14 1 0 dataBase).sessionInit .enc (BitVec.ofNat 28 (encodeCapacity n.toNat)) n
  | .dterm u => { s with resid := residueOf u, rvalid := true }
  | .dstart l => s.startDecode (decodeCount s.resid l.toNat).toNat l
  | .push x => s.pushElement x
  | .flush => s.emitPending.endSession
  | .eterm => s.writeTerminator
  | .abort => { s with active := false, done := false, mode := .none, rvalid := false }
  | .clrerr => s.clearError

theorem Effect.eq_effectState {i : Instr} {s t : State} (h : Effect i s t) : t = effectState i s := by
  cases i with
  | nop | abort | clrerr => exact h
  | cfgso | cfgto | dterm | push | flush => exact h.2
  | cfgw | estart => exact h.2.2
  | gstart => exact h.2.2.2
  | dstart | eterm => exact h.2.2.2.2

/-- A command gives a refused state or the state of its effect (R201, R203). -/
theorem exec_eq_raise_or_effectState {i : Instr} {s t : State} (h : exec i s = .next t) :
    (∃ c, t = s.raise c) ∨ t = effectState i s := by
  obtain ⟨c, -, ht, -⟩ | heffect := exec_cases h
  · exact .inl ⟨c, ht⟩
  · exact .inr heffect.eq_effectState

/-- `raise` in the terms of the statements: a refusal with the cause's code (R201). -/
theorem State.raise_eq_refusedWith (s : State) (c : Cause) : s.raise c = s.refusedWith c.code := by
  cases h : s.err <;> simp [State.raise, State.refusedWith, h]

end Sys2Proof.Machine

/-! The statements about the registers of 10_state.md: the STATUS word, RVALID, DEPTH. -/

namespace Sys2Proof.Machine

/-! ### The STATUS word -/

/-- The STATUS word as the sum of its fields (R23). -/
theorem State.statusWord_toNat (s : State) :
    s.statusWord.toNat = s.rvalid.toNat * 2 ^ 10 + s.mode.code.toNat * 2 ^ 8 + s.ecode.toNat * 2 ^ 4 +
      s.err.toNat * 2 ^ 3 + s.full.toNat * 2 ^ 2 + s.done.toNat * 2 + s.active.toNat := by
  simp only [State.statusWord, toNat_append_sum, BitVec.toNat_ofBool]
  simp
  omega

/-- Each field of STATUS is a quotient and a remainder of the sum of the fields (R23, R30). -/
theorem State.statusWord_fields (s : State) :
    s.statusWord.field 0 1 = BitVec.ofBool s.active ∧ s.statusWord.field 1 1 = BitVec.ofBool s.done ∧
    s.statusWord.field 2 1 = BitVec.ofBool s.full ∧ s.statusWord.field 3 1 = BitVec.ofBool s.err ∧
    s.statusWord.field 4 4 = s.ecode ∧ s.statusWord.field 8 2 = s.mode.code ∧
    s.statusWord.field 10 1 = BitVec.ofBool s.rvalid ∧ s.statusWord.field 11 21 = 0 := by
  have hactive := s.active.toNat_le
  have hdone := s.done.toNat_le
  have hfull := s.full.toNat_le
  have herr := s.err.toNat_le
  have hrvalid := s.rvalid.toNat_le
  have hecode := s.ecode.isLt
  have hmode := s.mode.code.isLt
  simp only [field_eq_iff, State.statusWord_toNat, BitVec.toNat_ofBool, BitVec.ofNat_eq_ofNat,
    BitVec.toNat_ofNat]
  omega

/-- FULL as a bit (R26). -/
theorem State.ofBool_full (s : State) : BitVec.ofBool s.full = if s.oidx = s.cap then 1 else 0 := by
  by_cases h : s.oidx = s.cap
  · simp [State.full, h]
  · simp [State.full, h, beq_eq_false_iff_ne.mpr h]

/-- Settles O11, from the fields as the model's codes give them. -/
theorem statusWordHasItsFields : Obligations.StatusWordHasItsFields := by
  intro s
  obtain ⟨hactive, hdone, hfull, herr, hecode, hmode, hrvalid, hreserved⟩ := s.statusWord_fields
  refine ⟨hactive, hdone, hfull.trans s.ofBool_full, herr, hecode, hmode.trans ?_, hrvalid, hreserved⟩
  cases s.mode <;> rfl

/-! ### RVALID -/

/-- Of the effects only DTERM's sets RVALID (R29, R150). -/
theorem effectState_sets_rvalid {i : Instr} {s : State} (ht : (effectState i s).rvalid = true)
    (hs : s.rvalid = false) : ∃ e, i = .dterm e := by
  cases i with
  | dterm e => exact ⟨e, rfl⟩
  | _ => simp [effectState, hs] at ht

/-- Of the effects only those of DSTART and ABORT clear RVALID (R29, R151, R161). -/
theorem effectState_clears_rvalid {i : Instr} {s : State} (ht : (effectState i s).rvalid = false)
    (hs : s.rvalid = true) : (∃ l, i = .dstart l) ∨ i = .abort := by
  cases i with
  | dstart l => exact .inl ⟨l, rfl⟩
  | abort => exact .inr rfl
  | _ => simp [effectState, hs] at ht

/-- DTERM with no session open is not refused (R150). -/
theorem exec_dterm_idle {s : State} (hidle : s.active = false) (e : Elem) :
    exec (.dterm e) s = .next (effectState (.dterm e) s) :=
  perform_effect (effectState (.dterm e)) s (by simp [hidle])

/-- DSTART without a residue is refused with E_SEQ (R29, R151). -/
theorem exec_dstart_without_residue {s : State} (hidle : s.active = false) (hr : s.rvalid = false) (l : Count) :
    exec (.dstart l) s = .next (s.refusedWith 6) :=
  (perform_refuse _ s (by simp [hidle, hr])).trans (congrArg _ (s.raise_eq_refusedWith .seq))

/-- A DSTART that opens its session was not refused, since a refusal leaves ACTIVE alone (R151, R201). -/
theorem exec_dstart_opens {s t : State} {l : Count} (h : exec (.dstart l) s = .next t) (hidle : s.active = false)
    (hopen : t.active = true) : t.rvalid = false := by
  obtain ⟨c, rfl⟩ | rfl := exec_eq_raise_or_effectState h
  · simp [hidle] at hopen
  · rfl

/-- Only a DTERM with no session open sets RVALID (R29). -/
theorem exec_sets_rvalid {i : Instr} {s t : State} (h : exec i s = .next t) (ht : t.rvalid = true)
    (hs : s.rvalid = false) : s.active = false ∧ ∃ e, i = .dterm e := by
  obtain ⟨c, -, rfl, -⟩ | heffect := exec_cases h
  · simp [hs] at ht
  · obtain rfl := heffect.eq_effectState
    obtain ⟨e, rfl⟩ := effectState_sets_rvalid ht hs
    exact ⟨heffect.1, e, rfl⟩

/-- Only a DSTART that opens its session, and ABORT, clear RVALID (R29). -/
theorem exec_clears_rvalid {i : Instr} {s t : State} (h : exec i s = .next t) (ht : t.rvalid = false)
    (hs : s.rvalid = true) : (∃ l, i = .dstart l ∧ s.active = false ∧ t.active = true) ∨ i = .abort := by
  obtain ⟨c, -, rfl, -⟩ | heffect := exec_cases h
  · simp [hs] at ht
  · obtain rfl := heffect.eq_effectState
    obtain ⟨l, rfl⟩ | habort := effectState_clears_rvalid ht hs
    · exact .inl ⟨l, rfl, heffect.1, rfl⟩
    · exact .inr habort

/-- A step that takes a reset from the port gives the reset state (R231). -/
theorem step_reset {s : State} {rest : List HostEvent} (hport : s.port = .reset :: rest) :
    step s = .next (State.hostReset { s with port := rest }) := by
  simp only [step, takeEvent, hport]

/-- Settles O39: what the commands that are not refused do to RVALID, and that a refusal leaves it alone. -/
theorem rvalidIsLatchedAndConsumed : Obligations.RvalidIsLatchedAndConsumed := by
  refine ⟨fun i s t h => ⟨?dterm, ?dstart, ?abort, exec_sets_rvalid h, exec_clears_rvalid h, ?noResidue⟩, ?reset⟩
  case dterm =>
    rintro e rfl hidle
    rw [exec_dterm_idle hidle] at h
    cases h; rfl
  case dstart =>
    rintro l rfl hidle hopen
    exact exec_dstart_opens h hidle hopen
  case abort =>
    rintro rfl
    cases h; rfl
  case noResidue =>
    rintro l rfl hidle hr
    rw [exec_dstart_without_residue hidle hr] at h
    cases h; rfl
  case reset =>
    intro s t rest hport h
    rw [step_reset hport] at h
    cases h; rfl

/-! ### DEPTH -/

@[simp] theorem effectState_depth (i : Instr) (s : State) : (effectState i s).depth = s.depth := by
  cases i <;> simp [effectState]

/-- No command changes DEPTH, refused or not (R42). -/
theorem exec_depth {i : Instr} {s t : State} (h : exec i s = .next t) : t.depth = s.depth := by
  obtain ⟨c, rfl⟩ | rfl := exec_eq_raise_or_effectState h
  · rfl
  · exact effectState_depth i s

/-- No step changes DEPTH, whichever event it takes (R42, R231). -/
theorem step_depth {s t : State} (h : step s = .next t) : t.depth = s.depth := by
  obtain ⟨-, rfl⟩ | ⟨e, rest, -, hevent⟩ := step_cases h
  · rfl
  · obtain ⟨w, i, -, -, hexec⟩ | ⟨w, why, -, -, rfl⟩ | ⟨addr, -, rfl⟩ | ⟨-, rfl⟩ := hevent
    · simpa using exec_depth hexec
    · rfl
    · rfl
    · rfl

/-- Settles O40: the register read at 0x0000_000B, and the frame of every step. -/
theorem depthNeverChanges : Obligations.DepthNeverChanges := by
  refine ⟨rfl, fun s => ?_, fun s t => step_depth⟩
  rw [s.readWord_register (by decide)]
  exact BitVec.toNat_setWidth_of_le (by decide)

end Sys2Proof.Machine

/-! The statements about the words that decode to no command (30_encoding.md R87, R88), from the decoder format by format. -/

namespace Sys2Proof.Machine

/-! ### The step on a command word -/

/-- A step that takes a command word from the port performs it (R62, R80). -/
theorem step_command {s : State} {w : Word} {rest : List HostEvent} (hport : s.port = .command w :: rest) :
    step s = performWord w { s with port := rest } := by
  simp only [step, takeEvent, hport]

/-- A step that takes an illegal word only records E_ILLEGAL, whatever makes the word illegal (R90, R201). -/
theorem step_illegal {s : State} {w : Word} {rest : List HostEvent} {why : IllegalWord}
    (hport : s.port = .command w :: rest) (hw : decode w = .illegal why) :
    step s = .next (State.refusedWith 1 { s with port := rest }) := by
  rw [step_command hport, performWord_illegal hw, State.raise_eq_refusedWith]
  rfl

/-! ### The decoder by OP and format -/

section
variable {w : Word}

theorem decode_reservedOpcode (hop : w.field 28 4 = 0xD ∨ w.field 28 4 = 0xE ∨ w.field 28 4 = 0xF) :
    decode w = .illegal .reservedOpcode := by
  obtain h | h | h := hop <;> rw [decode, h] <;> rfl

/-- The opcodes of format N (R82, R86). -/
theorem decode_formatN (hop : w.field 28 4 ∈ ([0x0, 0x9, 0xA, 0xB, 0xC] : List (BitVec 4))) :
    ∃ i, decode w = decodeN w i := by
  simp only [List.mem_cons, List.not_mem_nil, or_false] at hop
  obtain h | h | h | h | h := hop <;> rw [decode, h] <;> exact ⟨_, rfl⟩

/-- The opcode of format W (R83, R86). -/
theorem decode_formatW (hop : w.field 28 4 = 0x1) : decode w = decodeW w := by
  rw [decode, hop]; rfl

/-- The opcodes of format H (R84, R86). -/
theorem decode_formatH (hop : w.field 28 4 ∈ ([0x2, 0x3, 0x6, 0x8] : List (BitVec 4))) :
    ∃ i, decode w = decodeH w i := by
  simp only [List.mem_cons, List.not_mem_nil, or_false] at hop
  obtain h | h | h | h := hop <;> rw [decode, h] <;> exact ⟨_, rfl⟩

/-- The opcodes of format L (R85, R86). -/
theorem decode_formatL (hop : w.field 28 4 ∈ ([0x4, 0x5, 0x7] : List (BitVec 4))) :
    ∃ i, decode w = decodeL w i := by
  simp only [List.mem_cons, List.not_mem_nil, or_false] at hop
  obtain h | h | h := hop <;> rw [decode, h] <;> exact ⟨_, rfl⟩

/-! ### A reserved bit that is set -/

@[simp] theorem decodeWhen_false (i : Instr) : decodeWhen false i = .illegal .reservedBits := rfl

theorem decodeN_reservedBits (hbits : w.field 0 28 ≠ 0) (i : Instr) : decodeN w i = .illegal .reservedBits := by
  rw [decodeN, beq_eq_false_iff_ne.mpr hbits, decodeWhen_false]

theorem decodeW_reservedBits (hbits : w.field 17 11 ≠ 0 ∨ w.field 13 3 ≠ 0 ∨ w.field 5 3 ≠ 0) :
    decodeW w = .illegal .reservedBits := by
  have hzero : (w.field 17 11 == 0 && w.field 13 3 == 0 && w.field 5 3 == 0) = false := by
    simpa only [Bool.and_eq_false_iff, beq_eq_false_iff_ne, or_assoc] using hbits
  rw [decodeW, hzero, decodeWhen_false]

theorem decodeH_reservedBits (hbits : w.field 16 12 ≠ 0) (i : Elem → Instr) :
    decodeH w i = .illegal .reservedBits := by
  rw [decodeH, beq_eq_false_iff_ne.mpr hbits, decodeWhen_false]

end

/-- Settles O7: the decoder knows no command for the three opcodes, and the step refuses what is no command. -/
theorem reservedOpcodeWordIsRefused : Obligations.ReservedOpcodeWordIsRefused :=
  fun _ _ _ hport hop => step_illegal hport (decode_reservedOpcode hop)

/-- Settles O8, one case for each format. -/
theorem reservedBitsWordIsRefused : Obligations.ReservedBitsWordIsRefused := by
  refine fun s w rest hport => ⟨fun hop hbits => ?formatN, fun hop hbits => ?formatW, fun hop hbits => ?formatH,
    fun hop => ?formatL⟩
  case formatN =>
    obtain ⟨i, hi⟩ := decode_formatN hop
    exact step_illegal hport (hi.trans (decodeN_reservedBits hbits i))
  case formatW => exact step_illegal hport ((decode_formatW hop).trans (decodeW_reservedBits hbits))
  case formatH =>
    obtain ⟨i, hi⟩ := decode_formatH hop
    exact step_illegal hport (hi.trans (decodeH_reservedBits hbits i))
  case formatL =>
    obtain ⟨i, hi⟩ := decode_formatL hop
    exact ⟨i (w.field 0 28), hi⟩

end Sys2Proof.Machine

/-! What the statements about single commands share: the decoder undoes the encoder, a command whose checks pass has its effect,
and a refusal in the terms of the statements. -/

namespace Sys2Proof.Machine

/-! ### Decoding an encoded command, format by format -/

@[simp] theorem decodeWhen_true (i : Instr) : decodeWhen true i = .command i := rfl

theorem decodeN_encodeN (op : BitVec 4) (i : Instr) : decodeN (encodeN op) i = .command i := by
  rw [decodeN, encodeN_reserved, beq_self_eq_true, decodeWhen_true]

theorem decodeH_encodeH (op : BitVec 4) (imm : Elem) (i : Elem → Instr) :
    decodeH (encodeH op imm) i = .command (i imm) := by
  rw [decodeH, encodeH_reserved, encodeH_imm, beq_self_eq_true, decodeWhen_true]

theorem decodeL_encodeL (op : BitVec 4) (imm : Count) (i : Count → Instr) :
    decodeL (encodeL op imm) i = .command (i imm) := by
  rw [decodeL, encodeL_imm]

theorem decodeW_encodeW (sw tw : Width) (o : BitVec 1) : decodeW (encodeW sw tw o) = .command (.cfgw sw tw o) := by
  obtain ⟨hhigh, hmiddle, hlow⟩ := encodeW_reserved sw tw o
  obtain ⟨hsw, htw, ho⟩ := encodeW_fields sw tw o
  simp only [decodeW, hhigh, hmiddle, hlow, hsw, htw, ho, beq_self_eq_true, Bool.and_self, decodeWhen_true]

/-- OP selects the command's format, and the format's fields are the operands (R81, R90). -/
theorem decode_encode (i : Instr) : decode (encode i) = .command i := by
  cases i with
  | nop | flush | eterm | abort | clrerr =>
    rw [encode, decode, encodeN_op]; exact decodeN_encodeN _ _
  | cfgw sw tw o => rw [encode, decode, encodeW_op]; exact decodeW_encodeW sw tw o
  | cfgso imm | cfgto imm | dterm imm | push imm =>
    rw [encode, decode, encodeH_op]; exact decodeH_encodeH _ imm _
  | gstart imm | estart imm | dstart imm =>
    rw [encode, decode, encodeL_op]; exact decodeL_encodeL _ imm _

/-! ### Effect and refusal -/

/-- The checks of a command, in the order in which it makes them (R203). -/
def checks (i : Instr) (s : State) : List (Bool × Cause) :=
  match i with
  | .nop | .abort | .clrerr => []
  | .cfgw sw tw oewsel => [(s.active, .busy), (!cfgLegal sw tw oewsel, .cfg)]
  | .cfgso _ | .cfgto _ | .dterm _ => [(s.active, .busy)]
  | .gstart cap =>
    [(s.active, .busy), (!cfgLegal s.sw s.tw s.oewsel, .cfg), (decide (s.depth.toNat < cap.toNat), .cap)]
  | .estart n => [(s.active, .busy), (decide (s.depth.toNat < encodeCapacity n.toNat), .cap)]
  | .dstart l =>
    let n := decodeCount s.resid l.toNat
    [(s.active, .busy), (!s.rvalid, .seq), (decide (n < 0 ∨ (s.depth.toNat : Int) < n), .cap)]
  | .push _ | .flush => [(!s.active, .notActive)]
  | .eterm => [(s.active, .busy), (s.mode != .enc || !s.done || s.icnt.toNat != s.nlen.toNat, .seq)]

/-- Every command makes its checks, then has its effect (R200, R203). -/
theorem exec_eq_perform (i : Instr) (s : State) : exec i s = perform (checks i s) (effectState i) s := by
  cases i <;> rfl

/-- Where a command has its effect, all its checks pass. -/
theorem Effect.checks_pass {i : Instr} {s t : State} (h : Effect i s t) : firstCause (checks i s) = none := by
  cases i with
  | nop | abort | clrerr => rfl
  | cfgso | cfgto | dterm | push | flush =>
    obtain ⟨hactive, -⟩ := h
    simp [checks, hactive]
  | cfgw =>
    obtain ⟨hidle, hlegal, -⟩ := h
    simp [checks, hidle, hlegal]
  | gstart =>
    obtain ⟨hidle, hlegal, hdepth, -⟩ := h
    simp [checks, hidle, hlegal, hdepth]
  | estart =>
    obtain ⟨hidle, hdepth, -⟩ := h
    simp [checks, hidle, hdepth]
  | dstart =>
    obtain ⟨hidle, hresidue, hnonneg, hdepth, -⟩ := h
    simp [checks, hidle, hresidue, hnonneg, hdepth]
  | eterm =>
    obtain ⟨hidle, hmode, hdone, hcount, -⟩ := h
    simp [checks, hidle, hmode, hdone, hcount]

/-- A command whose checks all pass gives its effect: the converse of `exec_cases` (R200). -/
theorem exec_of_effect {i : Instr} {s t : State} (h : Effect i s t) : exec i s = .next t := by
  rw [exec_eq_perform, perform_effect _ s h.checks_pass, h.eq_effectState]

/-- A command is refused with the first cause that applies, in the terms of the statements (R201). -/
theorem exec_refused {i : Instr} {s : State} {c : Cause} (h : firstCause (checks i s) = some c) :
    exec i s = .next (s.refusedWith c.code) := by
  rw [exec_eq_perform, perform_refuse _ s h, State.raise_eq_refusedWith]

theorem cfgLegal_eq_false_iff (sw tw : Width) (o : BitVec 1) :
    cfgLegal sw tw o = false ↔
      ¬ (1 ≤ sw.toNat ∧ sw.toNat ≤ 16 ∧ 1 ≤ tw.toNat ∧ tw.toNat ≤ oewOf o) := by
  rw [← cfgLegal_iff, Bool.not_eq_true]

/-! ### An open session under the invariant -/

theorem oewOf_le (o : BitVec 1) : oewOf o ≤ 16 := by
  unfold oewOf; split <;> omega

section
variable {s : State}

/-- The widths of an open session are between 1 and 16 (R31, R101). -/
theorem State.Inv.widths_bounds (h : s.Inv) (hopen : s.active = true) :
    1 ≤ s.sw.toNat ∧ s.sw.toNat ≤ 16 ∧ 1 ≤ s.tw.toNat ∧ s.tw.toNat ≤ 16 := by
  obtain ⟨hsw, hsw16, htw, htwoew⟩ := (cfgLegal_iff s.sw s.tw s.oewsel).mp (h.widths.2 hopen)
  exact ⟨hsw, hsw16, htw, htwoew.trans (oewOf_le s.oewsel)⟩

theorem State.Inv.oidx_lt_cap (h : s.Inv) (hroom : s.oidx ≠ s.cap) : s.oidx.toNat < s.cap.toNat :=
  Nat.lt_of_le_of_ne h.capacity.1 (fun heq => hroom (BitVec.eq_of_toNat_eq heq))

/-- An open session that meets the invariant and is not full has the premises of the element step (R37, R39). -/
theorem State.Inv.hasRoom (h : s.Inv) (hopen : s.active = true) (hroom : s.oidx ≠ s.cap) : s.HasRoom := by
  have hlt := h.oidx_lt_cap hroom
  obtain ⟨hsw, hsw16, htw, htw16⟩ := h.widths_bounds hopen
  obtain ⟨hoff, hrest, hlow⟩ := (h.accumulator hopen).1 (State.full_eq_false.mpr hlt.ne)
  exact ⟨hsw, hsw16, htw, htw16, hoff, hrest, hlow, hlt⟩

/-- Counting the PUSH touches nothing that the element step reads but ICNT. -/
theorem State.HasRoom.countPush (h : s.HasRoom) : s.countPush.HasRoom :=
  ⟨h.sw_pos, h.sw_le, h.tw_pos, h.tw_le, h.off_lt, h.rest_lt, h.rest_low, h.room⟩

theorem State.pushElement_of_full (x : Elem) (hfull : s.oidx = s.cap) : s.pushElement x = s.countPush :=
  if_pos (State.full_eq_true.mpr (congrArg BitVec.toNat hfull))

theorem State.pushElement_of_room (x : Elem) (hroom : s.oidx.toNat < s.cap.toNat) :
    s.pushElement x = s.countPush.takeElement x :=
  if_neg (Bool.eq_false_iff.mp (State.full_eq_false.mpr hroom.ne))

/-- A PUSH with room emits the whole groups of its bits, as far as there is room (R106, R111). -/
theorem State.HasRoom.pushElement_oidx (h : s.HasRoom) (x : Elem) :
    (s.pushElement x).oidx.toNat =
      s.oidx.toNat + min ((s.accOff.toNat + s.sw.toNat) / s.tw.toNat) (s.cap.toNat - s.oidx.toNat) := by
  rw [State.pushElement_of_room x h.room]
  exact (State.takeElement_spec x h.countPush).1

/-- FLUSH emits nothing when no bit is pending or the buffer is full (R112). -/
theorem State.emitPending_of_nothing (h : s.accOff = 0 ∨ s.cap.toNat ≤ s.oidx.toNat) : s.emitPending = s := by
  refine if_neg fun ⟨hpending, hroom⟩ => ?_
  obtain h0 | hfull := h
  · simp [h0] at hpending
  · exact absurd hroom (Nat.not_lt.mpr hfull)

/-- FLUSH emits ACC_REST when a bit is pending and the buffer has room (R112). -/
theorem State.emitPending_of_pending (hpending : s.accOff ≠ 0) (hroom : s.oidx.toNat < s.cap.toNat) :
    s.emitPending = s.emit (s.accAny || s.outAny) s.accRest.toNat :=
  if_pos ⟨Nat.pos_of_ne_zero fun h0 => hpending (BitVec.eq_of_toNat_eq h0), hroom⟩

end

end Sys2Proof.Machine

/-! The statements about the realigner core (40_realigner.md) that concern one command: the bounds on what a PUSH and a FLUSH
emit, the preset sessions' emits, and the configuration, start and end of a session. -/

namespace Sys2Proof.Machine

/-! ### The bounds on emits (R115) -/

/-- An element in a session with room completes at most floor((TW - 1 + SW) / TW) groups (R115). -/
theorem State.HasRoom.groups_le {s : State} (h : s.HasRoom) :
    (s.accOff.toNat + s.sw.toNat) / s.tw.toNat ≤ (s.tw.toNat - 1 + s.sw.toNat) / s.tw.toNat :=
  Nat.div_le_div_right (Nat.add_le_add_right (Nat.le_sub_one_of_lt h.off_lt) _)

/-- The bound is at most 16 for legal widths (R115). -/
theorem groupBound_le_sixteen {sw tw : Nat} (hsw : sw ≤ 16) (htw : 1 ≤ tw) : (tw - 1 + sw) / tw ≤ 16 :=
  Nat.div_le_of_le_mul (by omega)

/-- A PUSH raises OIDX by at most the groups of its bits, and not past CAP, whether or not the session is full (R106, R115). -/
theorem State.Inv.pushElement_oidx_bounds {s : State} (h : s.Inv) (hopen : s.active = true) (x : Elem) :
    s.oidx.toNat ≤ (s.pushElement x).oidx.toNat ∧ (s.pushElement x).oidx.toNat ≤ s.cap.toNat ∧
      (s.pushElement x).oidx.toNat - s.oidx.toNat ≤ (s.tw.toNat - 1 + s.sw.toNat) / s.tw.toNat := by
  by_cases hfull : s.oidx = s.cap
  · rw [State.pushElement_of_full x hfull, State.countPush_oidx, Nat.sub_self]
    exact ⟨le_rfl, h.capacity.1, Nat.zero_le _⟩
  · have hs := h.hasRoom hopen hfull
    have hgroups := hs.groups_le
    have hlt := hs.room
    rw [hs.pushElement_oidx x]
    refine ⟨Nat.le_add_right _ _, ?_, ?_⟩
    · have := Nat.min_le_right ((s.accOff.toNat + s.sw.toNat) / s.tw.toNat) (s.cap.toNat - s.oidx.toNat)
      omega
    · rw [Nat.add_sub_cancel_left]
      exact (Nat.min_le_left _ _).trans hgroups

/-- FLUSH raises OIDX by at most 1, and not past CAP (R112, R115). -/
theorem State.Inv.emitPending_oidx_bounds {s : State} (h : s.Inv) :
    s.oidx.toNat ≤ s.emitPending.oidx.toNat ∧ s.emitPending.oidx.toNat ≤ s.oidx.toNat + 1 ∧
      s.emitPending.oidx.toNat ≤ s.cap.toNat := by
  have hcap := h.capacity.1
  by_cases hnothing : s.accOff = 0 ∨ s.cap.toNat ≤ s.oidx.toNat
  · rw [State.emitPending_of_nothing hnothing]
    omega
  · obtain ⟨hpending, hroom⟩ := not_or.mp hnothing
    rw [Nat.not_le] at hroom
    rw [State.emitPending_of_pending hpending hroom, State.emit_oidx, State.oidx_succ hroom]
    omega

/-- An open generic session with nothing pushed that realigns 16-bit elements to single bits, with room for one element. -/
def bitSession : State :=
  { State.resetAt 16 with active := true, mode := .gen, sw := 16, tw := 1, cap := 16 }

theorem bitSession_inv : bitSession.Inv where
  errorRecord := by simp [State.ErrorRecordOk, bitSession, State.resetAt]
  sessionFlags := by simp [State.SessionFlagsOk, bitSession, State.resetAt]
  widths := by unfold State.WidthsOk; decide
  capacity := by unfold State.CapacityOk; decide
  accumulator := by unfold State.AccumulatorOk; decide
  preset := by simp [State.PresetOk, bitSession, State.resetAt]
  buffer := ⟨List.Pairwise.nil, fun _ _ => rfl, fun i hi => by
    simp [State.sessionWrote, bitSession, State.resetAt] at hi⟩

/-- The bound of 16 is reached: the 16 bits of the element are 16 groups of one bit (R115). -/
theorem bitSession_push_emits_sixteen (x : Elem) :
    (bitSession.pushElement x).oidx.toNat = bitSession.oidx.toNat + 16 :=
  (bitSession_inv.hasRoom rfl (by decide)).pushElement_oidx x

/-- Settles O43, with a session of 16-bit elements and single-bit groups for the bound that is reached. -/
theorem emitsAreBounded : Obligations.EmitsAreBounded := by
  refine ⟨exec_next, fun x s h hopen => ?push, fun s h hopen => ?flush, 0, bitSession, bitSession.pushElement 0,
    bitSession_inv, rfl, rfl, rfl, exec_of_effect ⟨rfl, rfl⟩, bitSession_push_emits_sixteen 0⟩
  case push =>
    obtain ⟨hup, hcap, hgroups⟩ := h.pushElement_oidx_bounds hopen x
    obtain ⟨-, hsw16, htw, htw16⟩ := h.widths_bounds hopen
    refine ⟨s.pushElement x, exec_of_effect ⟨hopen, rfl⟩, hup, by rwa [State.pushElement_cap], hgroups,
      hgroups.trans (groupBound_le_sixteen hsw16 htw), fun hroom => ?_, by omega⟩
    have hoff := (h.hasRoom hopen hroom).off_lt
    omega
  case flush =>
    obtain ⟨hup, hone, hcap⟩ := h.emitPending_oidx_bounds
    exact ⟨s.emitPending.endSession, exec_of_effect ⟨hopen, rfl⟩, hup, hone, by
      rwa [State.endSession_oidx, State.endSession_cap, State.emitPending_cap]⟩

/-! ### The preset sessions' emits (R116) -/

/-- The pending bits and the element bits that complete a group are disjoint, so their sum needs TW bits (R39). -/
theorem firstGroup_lt {tw a sw rest value : Nat} (ha : a < tw) (hlen : tw ≤ a + sw) (hrest : rest < 2 ^ tw)
    (hlow : rest % 2 ^ (tw - a) = 0) (hv : value < 2 ^ sw) : rest + value / 2 ^ (a + sw - tw) < 2 ^ tw := by
  have hbits : rest + value / 2 ^ (a + sw - tw) = pendingBits tw a sw rest value / 2 ^ (a + sw - tw) := by
    rw [pendingBits_div (by omega), show sw - (a + sw - tw) = tw - a by omega, rest_eq_pending hlow]
  rw [hbits, Nat.div_lt_iff_lt_mul (Nat.two_pow_pos _), ← pow_add, Nat.add_sub_cancel' hlen]
  exact pendingBits_lt ha.le hrest hv

/-- Settles O54: under ENC the mask does nothing, since the one group fits in TW bits; under DEC narrowing to OEW = TW bits is the
mask. -/
theorem presetEmitsNeedNoMask : Obligations.PresetEmitsNeedNoMask := by
  intro x s h hopen hroom hmode hlow hhigh tw oew len j hj rest top
  have hs := h.hasRoom hopen hroom
  obtain ⟨henc, hdec, -, -⟩ := h.preset
  obtain hmode | hmode := hmode
  · obtain ⟨hsw, htw, -, -, -⟩ := henc hopen hmode
    have htw14 : tw = 14 := congrArg BitVec.toNat htw
    have hsw8 : s.sw.toNat = 8 := congrArg BitVec.toNat hsw
    have hoff : s.accOff.toNat < tw := hs.off_lt
    have hlen : len = s.accOff.toNat + s.sw.toNat := rfl
    obtain rfl : j = 0 := by rw [htw14] at hj hoff; omega
    have hfit : rest + top < 2 ^ tw := by
      have htop : top = (x.toNat - s.soff.toNat) / 2 ^ (s.accOff.toNat + s.sw.toNat - tw) := by
        simp only [top, len, Nat.zero_add, Nat.one_mul]
      rw [htop]
      exact firstGroup_lt hoff (by omega) hs.rest_lt hs.rest_low (by omega)
    exact ⟨by rw [Nat.mod_eq_of_lt hfit], fun _ => ⟨rfl, htw14 ▸ hfit⟩,
      fun hdecode => (nomatch hmode.symm.trans hdecode)⟩
  · obtain ⟨-, htw, hoewsel, -, -⟩ := hdec hopen hmode
    have htw8 : tw = 8 := congrArg BitVec.toNat htw
    have hoew8 : oew = 8 := if_pos hoewsel
    exact ⟨by rw [htw8, hoew8, Nat.mod_add_mod], fun hencode => (nomatch hmode.symm.trans hencode),
      fun _ => ⟨hoew8, htw8⟩⟩

/-! ### The configuration and the start of a generic session (R107, R108, R110) -/

/-- Settles O18: CFGW's two checks in order, and its effect when both pass. -/
theorem cfgwWritesLegalWidths : Obligations.CfgwWritesLegalWidths := by
  refine ⟨fun sw tw o => decode_encode (.cfgw sw tw o), fun sw tw o s =>
    ⟨fun hopen => ?busy, fun hidle hillegal => ?cfg, fun hidle hlegal => ?effect⟩⟩
  case busy => exact exec_refused (c := .busy) (by simp [checks, hopen])
  case cfg =>
    exact exec_refused (c := .cfg) (by simp [checks, hidle, (cfgLegal_eq_false_iff sw tw o).mpr hillegal])
  case effect => exact exec_of_effect ⟨hidle, (cfgLegal_iff sw tw o).mpr hlegal, rfl⟩

/-- Settles O19: CFGSO's one check, and its effect for every immediate. -/
theorem cfgsoWritesInputOffset : Obligations.CfgsoWritesInputOffset := fun imm s =>
  ⟨decode_encode (.cfgso imm), fun hopen => exec_refused (c := .busy) (by simp [checks, hopen]),
    fun hidle => exec_of_effect ⟨hidle, rfl⟩⟩

/-- Settles O21: GSTART's three checks in order, and the session it opens when all pass. -/
theorem gstartOpensGenericSession : Obligations.GstartOpensGenericSession := by
  refine fun cap s => ⟨decode_encode (.gstart cap), fun hopen => ?busy, fun hidle hillegal => ?cfg,
    fun hidle hlegal hdepth => ?cap, fun hidle hlegal hdepth => ?effect⟩
  case busy => exact exec_refused (c := .busy) (by simp [checks, hopen])
  case cfg =>
    exact exec_refused (c := .cfg) (by simp [checks, hidle, (cfgLegal_eq_false_iff s.sw s.tw s.oewsel).mpr hillegal])
  case cap =>
    exact exec_refused (c := .cap) (by simp [checks, hidle, (cfgLegal_iff s.sw s.tw s.oewsel).mpr hlegal, hdepth])
  case effect =>
    exact ⟨s.sessionInit .gen cap 0,
      exec_of_effect ⟨hidle, (cfgLegal_iff s.sw s.tw s.oewsel).mpr hlegal, hdepth, rfl⟩, rfl⟩

/-! ### The end of a session (R112) -/

/-- Settles O31: FLUSH's check, its emit by whether a bit is pending with room in the buffer, and what the invariant says of the
group it emits. -/
theorem flushEmitsThePendingBits : Obligations.FlushEmitsThePendingBits := by
  refine ⟨decode_encode .flush, fun s => ⟨fun hidle => ?notActive, fun hopen hnothing => ?nothing,
    fun hopen hpending hroom => ?pending, fun h hopen hroom => ?padded⟩⟩
  case notActive => exact exec_refused (c := .notActive) (by simp [checks, hidle])
  case nothing =>
    rw [exec_of_effect (i := .flush) ⟨hopen, rfl⟩, State.emitPending_of_nothing hnothing]
    rfl
  case pending =>
    refine ⟨(s.emit (s.accAny || s.outAny) s.accRest.toNat).endSession, exec_of_effect ⟨hopen, ?_⟩, rfl,
      State.oidx_succ hroom, fun i hi => ?_, fun hacc hout => ⟨?_, ?_⟩⟩
    · rw [State.emitPending_of_pending hpending hroom]
    · rw [State.endSession_obuf, State.emit_obuf, Memory.read_write_other _ _ hi]
    · simp [hacc, hout]
    · simp [hacc, hout, outputValue, oewOf]
  case padded =>
    have hs := h.hasRoom hopen fun hfull => hroom.ne (congrArg BitVec.toNat hfull)
    exact ⟨hs.rest_lt, hs.rest_low⟩

end Sys2Proof.Machine

/-! The encoder framing commands ESTART and ETERM (41_encoder.md R140, R141), one command at a time. -/

namespace Sys2Proof.Machine

theorem encodeCapacity_eq (n : Nat) : encodeCapacity n = (4 * n + 6) / 7 + 1 := rfl

/-- A capacity within DEPTH is encodable in CAP's 28 bits (R34, R42). -/
theorem toNat_ofNat_capacity {n : Nat} {s : State} (h : n ≤ s.depth.toNat) : (BitVec.ofNat 28 n).toNat = n :=
  Nat.mod_eq_of_lt (h.trans_lt s.depth.isLt)

/-- Settles O22: ESTART's two checks in order, and the session it opens when both pass. -/
theorem estartOpensEncodeSession : Obligations.EstartOpensEncodeSession := by
  refine fun n s => ⟨decode_encode (.estart n), fun hopen => ?busy, fun hidle hdepth => ?cap,
    fun hidle hdepth => ?effect⟩
  case busy => exact exec_refused (c := .busy) (by simp [checks, hopen])
  case cap => exact exec_refused (c := .cap) (by simp [checks, hidle, encodeCapacity_eq, hdepth])
  case effect => exact ⟨_, exec_of_effect ⟨hidle, hdepth, rfl⟩, toNat_ofNat_capacity hdepth, rfl⟩

/-- The invariant gives an encode session a place for its terminator (R140, log 11). -/
theorem State.Inv.cap_pos_of_enc {s : State} (h : s.Inv) (hmode : s.mode = .enc) : 1 ≤ s.cap.toNat := by
  obtain ⟨-, -, -, hcap⟩ := h.preset
  rw [hcap hmode, encodeCapacity_eq]
  exact Nat.le_add_left 1 _

/-- Settles O32: ETERM's two checks in order, the one entry it writes, and the invariant's bound on CAP. -/
theorem etermWritesTheTerminator : Obligations.EtermWritesTheTerminator := by
  refine ⟨decode_encode .eterm, fun s => ⟨fun hopen => ?busy, fun hidle hunfinished => ?seq,
    fun hidle hmode hdone hcount _ => ?effect, fun h hmode => h.cap_pos_of_enc hmode⟩⟩
  case busy => exact exec_refused (c := .busy) (by simp [checks, hopen])
  case seq =>
    refine exec_refused (c := .seq) ?_
    obtain hmode | hdone | hcount := hunfinished
    · simp [checks, hidle, hmode]
    · simp [checks, hidle, hdone]
    · simp [checks, hidle, hcount]
  case effect =>
    refine ⟨s.writeTerminator, exec_of_effect ⟨hidle, hmode, hdone, hcount, rfl⟩, rfl, ?_, fun i hi => ?_⟩
    · exact Memory.read_write_same _ _ _
    · exact Memory.read_write_other _ _ hi

end Sys2Proof.Machine

/-! The bit stream as numbers (R64, R113): what a bit string spells, and its groups as quotients and remainders of that. -/

namespace Sys2Proof.Machine

/-! ### What a bit string spells -/

@[simp] theorem bitsValue_singleton (b : Bool) : bitsValue [b] = b.toNat := by simp [bitsValue]

theorem bitsValue_append (a b : List Bool) : bitsValue (a ++ b) = bitsValue a * 2 ^ b.length + bitsValue b := by
  induction b using List.reverseRecOn with
  | nil => simp [bitsValue]
  | append_singleton b x ih =>
    have hsnoc : ∀ c : List Bool, bitsValue (c ++ [x]) = 2 * bitsValue c + x.toNat := fun c => by simp [bitsValue]
    rw [← List.append_assoc, hsnoc, ih, hsnoc, List.length_append, List.length_singleton, pow_succ]
    ring

theorem bitsValue_lt (bits : List Bool) : bitsValue bits < 2 ^ bits.length := by
  induction bits with
  | nil => simp [bitsValue]
  | cons x bits ih =>
    have := Nat.mul_le_mul_right (2 ^ bits.length) x.toNat_le
    rw [← List.singleton_append, bitsValue_append, bitsValue_singleton, List.singleton_append, List.length_cons, pow_succ]
    omega

theorem bitsValue_replicate_false (n : Nat) : bitsValue (List.replicate n false) = 0 := by
  induction n with
  | zero => rfl
  | succ n ih => rw [List.replicate_succ', bitsValue_append, ih]; rfl

/-- The first m bits are the number without its low bits. -/
theorem bitsValue_take (bits : List Bool) (m : Nat) :
    bitsValue (bits.take m) = bitsValue bits / 2 ^ (bits.length - m) := by
  have hsplit := bitsValue_append (bits.take m) (bits.drop m)
  have hlt := bitsValue_lt (bits.drop m)
  rw [List.take_append_drop, List.length_drop] at hsplit
  rw [List.length_drop] at hlt
  rw [hsplit, Nat.add_comm, Nat.add_mul_div_right _ _ (Nat.two_pow_pos _), Nat.div_eq_of_lt hlt, Nat.zero_add]

/-- The bits after the first m are the number's low bits. -/
theorem bitsValue_drop (bits : List Bool) (m : Nat) :
    bitsValue (bits.drop m) = bitsValue bits % 2 ^ (bits.length - m) := by
  have hsplit := bitsValue_append (bits.take m) (bits.drop m)
  have hlt := bitsValue_lt (bits.drop m)
  rw [List.take_append_drop, List.length_drop] at hsplit
  rw [List.length_drop] at hlt
  rw [hsplit, Nat.mul_add_mod_self_right, Nat.mod_eq_of_lt hlt]

@[simp] theorem bitsOf_length (width v : Nat) : (bitsOf width v).length = width := by simp [bitsOf]

/-- The bits of a value that fits its width spell the value (R64). -/
theorem bitsValue_bitsOf {width v : Nat} (h : v < 2 ^ width) : bitsValue (bitsOf width v) = v := by
  induction width generalizing v with
  | zero => simp [Nat.lt_one_iff.mp h, bitsOf, bitsValue]
  | succ width ih =>
    have hbits : bitsOf (width + 1) v = bitsOf width (v / 2) ++ [v.testBit 0] := by
      rw [bitsOf, List.range_succ, List.map_append, bitsOf]
      congr 1
      · refine List.map_congr_left fun j hj => ?_
        rw [List.mem_range] at hj
        rw [show width + 1 - 1 - j = width - 1 - j + 1 by omega, Nat.testBit_succ]
      · simp
    rw [hbits, bitsValue_append, ih (by rw [pow_succ] at h; omega), bitsValue_singleton, Nat.toNat_testBit,
      List.length_singleton]
    omega

/-! ### The groups of a stream -/

section
variable {tw : Nat} {stream : List Bool} {k : Nat}

/-- Bits appended to a stream leave its whole groups alone. -/
theorem streamGroup_append (h : (k + 1) * tw ≤ stream.length) (more : List Bool) :
    streamGroup tw (stream ++ more) k = streamGroup tw stream k := by
  rw [Nat.succ_mul] at h
  have hbits : ((stream ++ more).drop (k * tw)).take tw = (stream.drop (k * tw)).take tw := by
    rw [List.drop_append_of_le_length (by omega), List.take_append_of_le_length (by rw [List.length_drop]; omega)]
  simp only [streamGroup, hbits]

/-- The groups after the first q ones are those of the rest of the stream. -/
theorem streamGroup_drop (q : Nat) : streamGroup tw (stream.drop (q * tw)) k = streamGroup tw stream (q + k) := by
  simp only [streamGroup, List.drop_drop, Nat.add_mul]

/-- A group has TW bits, missing ones being 0 (R113). -/
theorem streamGroup_lt : streamGroup tw stream k < 2 ^ tw := by
  refine (bitsValue_lt _).trans_eq (congrArg (2 ^ ·) ?_)
  rw [List.length_append, List.length_replicate]
  exact Nat.add_sub_cancel' (List.length_take_le _ _)

/-- A whole group is TW consecutive bits of the number that the stream spells (R113). -/
theorem streamGroup_whole (h : (k + 1) * tw ≤ stream.length) :
    streamGroup tw stream k = bitsValue stream / 2 ^ (stream.length - (k + 1) * tw) % 2 ^ tw := by
  rw [Nat.succ_mul] at h ⊢
  have hrest : stream.length - k * tw = stream.length - (k * tw + tw) + tw := by omega
  have hlen : ((stream.drop (k * tw)).take tw).length = tw := by
    rw [List.length_take, List.length_drop]; omega
  simp only [streamGroup, hlen, Nat.sub_self, List.replicate_zero, List.append_nil]
  rw [bitsValue_take, bitsValue_drop, List.length_drop, hrest, Nat.add_sub_cancel, pow_add, Nat.mod_mul_right_div_self]

/-- The group after the whole ones is the bits left over, with zeros below them (R37, R39, R113). -/
theorem streamGroup_last (htw : 0 < tw) :
    streamGroup tw stream (stream.length / tw) =
      bitsValue stream % 2 ^ (stream.length % tw) * 2 ^ (tw - stream.length % tw) := by
  have hrest : stream.length - stream.length / tw * tw = stream.length % tw := by
    have := Nat.div_add_mod' stream.length tw
    omega
  have hlen : (stream.drop (stream.length / tw * tw)).length = stream.length % tw := by rw [List.length_drop, hrest]
  have htake : (stream.drop (stream.length / tw * tw)).take tw = stream.drop (stream.length / tw * tw) :=
    List.take_of_length_le (hlen.trans_le (Nat.mod_lt _ htw).le)
  simp only [streamGroup, htake, hlen]
  rw [bitsValue_append, bitsValue_replicate_false, bitsValue_drop, hrest, List.length_replicate, Nat.add_zero]

/-- With the last group of a stream pending, the bits of an element are the rest of the longer stream (R105, R113). -/
theorem pendingBits_streamGroup (htw : 0 < tw) {sw v : Nat} (hv : v < 2 ^ sw) :
    pendingBits tw (stream.length % tw) sw (streamGroup tw stream (stream.length / tw)) v =
      bitsValue ((stream ++ bitsOf sw v).drop (stream.length / tw * tw)) := by
  have hrest : stream.length - stream.length / tw * tw = stream.length % tw := by
    have := Nat.div_add_mod' stream.length tw
    omega
  rw [List.drop_append_of_le_length (Nat.div_mul_le_self _ _), bitsValue_append, bitsValue_drop, hrest, bitsOf_length,
    bitsValue_bitsOf hv, pendingBits, streamGroup_last htw, Nat.mul_div_cancel _ (Nat.two_pow_pos _)]

end

/-! ### The stream of a session's elements -/

section
variable (sw : Width) (soff : Elem)

@[simp] theorem elemStream_length (xs : List Elem) : (elemStream sw soff xs).length = xs.length * sw.toNat := by
  simp [elemStream, bitStream, elemValues, List.length_flatMap, Function.comp_def]

theorem elemStream_snoc (xs : List Elem) (x : Elem) :
    elemStream sw soff (xs ++ [x]) = elemStream sw soff xs ++ bitsOf sw.toNat (x.toNat - soff.toNat) := by
  simp [elemStream, bitStream, elemValues]

end

end Sys2Proof.Machine

/-! The bitstream law (R113, R114), said once for every kind of session whose outputs are determined: what an open session has
written after a list of in-range elements, and what FLUSH makes of it. -/

namespace Sys2Proof.Machine

/-- A session just opened, with legal widths and determined outputs (R101, R102). -/
structure State.Opened (s : State) : Prop where
  active : s.active = true
  widths : cfgLegal s.sw s.tw s.oewsel = true
  oidx : s.oidx = 0
  accOff : s.accOff = 0
  accRest : s.accRest = 0
  accAny : s.accAny = false
  outAny : s.outAny = false

/-- The stream of elements under the session's configuration (R113). -/
def State.streamOf (s : State) (xs : List Elem) : List Bool := elemStream s.sw s.soff xs

/-- Group k of the elements' stream under the session's configuration (R113). -/
def State.groupOf (s : State) (xs : List Elem) (k : Nat) : Nat := streamGroup s.tw.toNat (s.streamOf xs) k

/-- The output for group k of the elements' stream (R104, R113). -/
def State.outputOf (s : State) (xs : List Elem) (k : Nat) : Elem := outputValue s.toff s.oewsel (s.groupOf xs k)

/-- The number of whole groups in the elements' stream (R113). -/
def State.wholeGroups (s : State) (xs : List Elem) : Nat := (s.streamOf xs).length / s.tw.toNat

/-- The number of entries that the elements' whole groups fill (R106). -/
def State.filled (s : State) (xs : List Elem) : Nat := min (s.wholeGroups xs) s.cap.toNat

/-- The stream of the elements and one more, from the group on that is not complete before it. -/
def State.restOf (s : State) (xs : List Elem) (x : Elem) : List Bool :=
  (s.streamOf (xs ++ [x])).drop (s.wholeGroups xs * s.tw.toNat)

/-- The state `t` of the session opened as `s` after the elements `xs`: the whole groups of their stream that fit are written, and
while the buffer has room the group not yet complete is pending (R37, R38, R40, R41, R113). -/
structure State.Fed (s : State) (xs : List Elem) (t : State) : Prop where
  frame : t = { s with
    icnt := s.icnt + BitVec.ofNat 32 xs.length, oidx := t.oidx, obuf := t.obuf, accOff := t.accOff, accRest := t.accRest,
    draws := t.draws }
  oidx : t.oidx.toNat = s.filled xs
  written : ∀ i, i < s.filled xs → t.obuf.read i = some (s.outputOf xs i)
  kept : ∀ i, s.filled xs ≤ i → t.obuf.read i = s.obuf.read i
  pending : t.oidx ≠ t.cap →
    t.accOff.toNat = (s.streamOf xs).length % s.tw.toNat ∧
      t.accRest.toNat = s.groupOf xs (s.wholeGroups xs)

section
variable {s t : State} {xs : List Elem} {x : Elem}

theorem State.Opened.tw_pos (h : s.Opened) : 0 < s.tw.toNat := ((cfgLegal_iff _ _ _).mp h.widths).2.2.1

/-- Before the first element nothing is written and no bit is pending. -/
theorem State.Opened.fed_nil (h : s.Opened) : s.Fed [] s where
  frame := by simp
  oidx := by simp [h.oidx, State.filled, State.wholeGroups, State.streamOf]
  written := by simp [State.filled, State.wholeGroups, State.streamOf]
  kept := fun _ _ => rfl
  pending := by
    simp [h.accOff, h.accRest, State.groupOf, State.streamOf, streamGroup, elemStream, elemValues, bitStream,
      bitsValue_replicate_false]

section
variable (h : s.Fed xs t)
include h

theorem State.Fed.active : t.active = s.active := by rw [h.frame]
theorem State.Fed.mode : t.mode = s.mode := by rw [h.frame]
theorem State.Fed.sw : t.sw = s.sw := by rw [h.frame]
theorem State.Fed.tw : t.tw = s.tw := by rw [h.frame]
theorem State.Fed.oewsel : t.oewsel = s.oewsel := by rw [h.frame]
theorem State.Fed.soff : t.soff = s.soff := by rw [h.frame]
theorem State.Fed.toff : t.toff = s.toff := by rw [h.frame]
theorem State.Fed.cap : t.cap = s.cap := by rw [h.frame]
theorem State.Fed.icnt : t.icnt = s.icnt + BitVec.ofNat 32 xs.length := by rw [h.frame]
theorem State.Fed.accAny : t.accAny = s.accAny := by rw [h.frame]
theorem State.Fed.outAny : t.outAny = s.outAny := by rw [h.frame]

/-- While the buffer has room all the whole groups are written. -/
theorem State.Fed.oidx_of_room (hroom : t.oidx ≠ t.cap) :
    t.oidx.toNat = s.wholeGroups xs ∧ t.oidx.toNat < s.cap.toNat := by
  have hne : t.oidx.toNat ≠ s.cap.toNat := fun heq => hroom (BitVec.eq_of_toNat_eq (heq.trans (by rw [h.cap])))
  have hoidx := h.oidx
  unfold State.filled at hoidx
  omega

/-- An open session fed some elements that is not full has the premises of the element step (R37, R39). -/
theorem State.Fed.hasRoom (hs : s.Opened) (hroom : t.oidx ≠ t.cap) : t.HasRoom := by
  obtain ⟨hsw, hsw16, htw, htwoew⟩ := (cfgLegal_iff _ _ _).mp hs.widths
  obtain ⟨hoff, hrest⟩ := h.pending hroom
  obtain ⟨-, hlt⟩ := h.oidx_of_room hroom
  refine ⟨by rwa [h.sw], by rwa [h.sw], by rwa [h.tw], by rw [h.tw]; exact htwoew.trans (oewOf_le _),
    by rw [h.tw, hoff]; exact Nat.mod_lt _ htw, by rw [h.tw, hrest]; exact streamGroup_lt, ?_, by rwa [h.cap]⟩
  rw [h.tw, hoff, hrest, State.groupOf, State.wholeGroups, streamGroup_last htw, Nat.mul_mod_left]

end

theorem State.streamOf_snoc (s : State) (xs : List Elem) (x : Elem) :
    s.streamOf (xs ++ [x]) = s.streamOf xs ++ bitsOf s.sw.toNat (x.toNat - s.soff.toNat) := elemStream_snoc _ _ xs x

/-- A whole group that is written before an element is a group of the longer stream too. -/
theorem State.outputOf_snoc {i : Nat} (hi : i < s.filled xs) : s.outputOf (xs ++ [x]) i = s.outputOf xs i := by
  have hwhole : (i + 1) * s.tw.toNat ≤ (s.streamOf xs).length :=
    (Nat.mul_le_mul_right _ (show i + 1 ≤ _ from (lt_min_iff.mp hi).1)).trans (Nat.div_mul_le_self _ _)
  rw [State.outputOf, State.groupOf, State.streamOf_snoc, streamGroup_append hwhole]
  rfl

/-- PUSH counts the element and writes OIDX, OBUF, the accumulator and the model's own marks, and nothing else (R111). -/
theorem State.pushElement_frame (x : Elem) (s : State) :
    let t := s.pushElement x
    t = { s with
      icnt := s.icnt + 1, oidx := t.oidx, obuf := t.obuf, accOff := t.accOff, accRest := t.accRest, accAny := t.accAny,
      outAny := t.outAny, draws := t.draws } := by
  by_cases hfull : s.countPush.full = true
  · rw [State.pushElement, if_pos hfull]
    rfl
  · rw [State.pushElement, if_neg hfull]
    exact State.takeElement_frame x s.countPush

/-- The frame of one more element, where no mark of an open output is set. -/
theorem State.Fed.push_frame (h : s.Fed xs t) (hacc : (t.pushElement x).accAny = s.accAny)
    (hout : (t.pushElement x).outAny = s.outAny) :
    t.pushElement x = { s with
      icnt := s.icnt + BitVec.ofNat 32 (xs ++ [x]).length, oidx := (t.pushElement x).oidx, obuf := (t.pushElement x).obuf,
      accOff := (t.pushElement x).accOff, accRest := (t.pushElement x).accRest, draws := (t.pushElement x).draws } := by
  have hicnt : t.icnt + 1 = s.icnt + BitVec.ofNat 32 (xs ++ [x]).length := by
    rw [h.icnt, List.length_append, List.length_singleton, BitVec.ofNat_add, BitVec.add_assoc]
    rfl
  refine (State.pushElement_frame x t).trans ?_
  rw [hacc, hout, hicnt]
  exact congrArg (fun u : State => { u with
    icnt := s.icnt + BitVec.ofNat 32 (xs ++ [x]).length, oidx := (t.pushElement x).oidx, obuf := (t.pushElement x).obuf,
    accOff := (t.pushElement x).accOff, accRest := (t.pushElement x).accRest, accAny := s.accAny, outAny := s.outAny,
    draws := (t.pushElement x).draws }) h.frame

/-- A full buffer stays as it is: the element is counted and discarded (R106, R111). -/
theorem State.Fed.push_full (h : s.Fed xs t) (hfull : t.oidx = t.cap) : s.Fed (xs ++ [x]) (t.pushElement x) := by
  have hlen : (s.streamOf xs).length ≤ (s.streamOf (xs ++ [x])).length := by
    rw [State.streamOf_snoc, List.length_append]
    exact Nat.le_add_right _ _
  have hfilled : s.filled xs = s.cap.toNat := by rw [← h.oidx, hfull, h.cap]
  have hsame : s.filled (xs ++ [x]) = s.filled xs := by
    have hwhole : s.wholeGroups xs ≤ s.wholeGroups (xs ++ [x]) := Nat.div_le_div_right hlen
    unfold State.filled at hfilled ⊢
    omega
  have hpush := State.pushElement_of_full x hfull
  refine ⟨h.push_frame ?_ ?_, ?_, fun i hi => ?_, fun i hi => ?_, fun hroom => ?_⟩
  · rw [hpush, State.countPush_accAny, h.accAny]
  · rw [hpush, State.countPush_outAny, h.outAny]
  · rw [hpush, hsame]; exact h.oidx
  · rw [hsame] at hi
    rw [hpush, State.outputOf_snoc hi]
    exact h.written i hi
  · rw [hpush]
    exact h.kept i (hsame ▸ hi)
  · rw [hpush] at hroom
    exact absurd hfull hroom

/-- A PUSH with room in a session whose outputs are determined. Where `rest` are the pending bits followed by the element's, it writes
the whole groups of `rest` that fit, and the group after them is pending while the buffer has room (R105, R106, R111). -/
theorem State.HasRoom.pushElement_groups (h : t.HasRoom) (hx : elemInRange t.sw t.soff x = true)
    (hacc : t.accAny = false) (hout : t.outAny = false) (himage : t.countPush.unitOutsideImage x = false)
    {rest : List Bool} (hlen : t.accOff.toNat + t.sw.toNat = rest.length)
    (hbits : pendingBits t.tw.toNat t.accOff.toNat t.sw.toNat t.accRest.toNat (inputValue t.sw t.soff x) = bitsValue rest) :
    let u := t.pushElement x
    let whole := rest.length / t.tw.toNat
    let room := t.cap.toNat - t.oidx.toNat
    u.accAny = false ∧ u.outAny = false ∧ u.oidx.toNat = t.oidx.toNat + min whole room ∧
      (∀ i, i < t.oidx.toNat ∨ t.oidx.toNat + min whole room ≤ i → u.obuf.read i = t.obuf.read i) ∧
      (∀ j, j < min whole room →
        u.obuf.read (t.oidx.toNat + j) = some (outputValue t.toff t.oewsel (streamGroup t.tw.toNat rest j))) ∧
      (whole < room →
        u.accOff.toNat = rest.length % t.tw.toNat ∧ u.accRest.toNat = streamGroup t.tw.toNat rest whole) := by
  intro u whole room
  obtain ⟨hoidx, hopen, hfull, hkept, hgroups⟩ := State.takeElement_spec x h.countPush
  rw [← State.pushElement_of_room x h.room] at hoidx hopen hfull hkept hgroups
  simp only [State.countPush_oidx, State.countPush_cap, State.countPush_tw, State.countPush_sw, State.countPush_accOff,
    State.countPush_accRest, State.countPush_accAny, State.countPush_outAny, State.countPush_soff, State.countPush_toff,
    State.countPush_oewsel, State.keptEntry, State.countPush_obuf, himage, hacc, hout, hx, hlen, hbits, Bool.and_false,
    Bool.not_true, Bool.or_self, Bool.false_eq_true, false_and, if_false] at hoidx hopen hfull hkept hgroups
  refine ⟨?_, ?_, hoidx, hkept, fun j hj => ?_, fun hroom => ?_⟩
  · rcases Nat.lt_or_ge whole room with hroom | hroom
    · exact (hopen hroom).2.2
    · exact (hfull hroom).2.2
  · simp [u, State.pushElement_of_room x h.room, himage, hout]
  · have hwhole : (j + 1) * t.tw.toNat ≤ rest.length :=
      (Nat.le_div_iff_mul_le h.tw_pos).mp (lt_min_iff.mp hj).1
    rw [streamGroup_whole hwhole]
    exact hgroups j hj
  · obtain ⟨hoff, hrest, -⟩ := hopen hroom
    exact ⟨hoff, hrest.trans (streamGroup_last h.tw_pos).symm⟩

/-! The rest of the longer stream: its length, its groups, and the bits that spell it. -/

theorem State.restOf_length : (s.restOf xs x).length = (s.streamOf xs).length % s.tw.toNat + s.sw.toNat := by
  have hsum := Nat.div_add_mod' (s.streamOf xs).length s.tw.toNat
  rw [State.restOf, State.wholeGroups, List.length_drop, State.streamOf_snoc, List.length_append, bitsOf_length]
  omega

theorem State.streamOf_snoc_length :
    (s.streamOf (xs ++ [x])).length = (s.restOf xs x).length + s.tw.toNat * s.wholeGroups xs := by
  have hsum := Nat.mod_add_div (s.streamOf xs).length s.tw.toNat
  rw [State.restOf_length, State.wholeGroups, State.streamOf_snoc, List.length_append, bitsOf_length]
  omega

theorem State.restOf_group (j : Nat) :
    streamGroup s.tw.toNat (s.restOf xs x) j = s.groupOf (xs ++ [x]) (s.wholeGroups xs + j) := streamGroup_drop _

theorem State.Opened.wholeGroups_snoc (hs : s.Opened) :
    s.wholeGroups (xs ++ [x]) = s.wholeGroups xs + (s.restOf xs x).length / s.tw.toNat := by
  rw [State.wholeGroups, State.streamOf_snoc_length, Nat.add_mul_div_left _ _ hs.tw_pos, Nat.add_comm]

/-- The pending bits of a session fed some elements, followed by those of one more, spell the rest of the stream. -/
theorem State.Fed.pendingBits_eq (h : s.Fed xs t) (hs : s.Opened) (hroom : t.oidx ≠ t.cap)
    (hx : elemInRange s.sw s.soff x = true) :
    pendingBits t.tw.toNat t.accOff.toNat t.sw.toNat t.accRest.toNat (inputValue t.sw t.soff x) =
      bitsValue (s.restOf xs x) := by
  obtain ⟨hoff, hrest⟩ := h.pending hroom
  have hvalue : x.toNat - s.soff.toNat < 2 ^ s.sw.toNat := inputValue_of_inRange hx ▸ inputValue_lt s.sw s.soff x
  rw [h.tw, h.sw, h.soff, hoff, hrest, inputValue_of_inRange hx, State.restOf, State.streamOf_snoc]
  exact pendingBits_streamGroup hs.tw_pos hvalue

/-- An element with room: its whole groups are the next ones of the longer stream, and the bits left over are pending (R105, R111,
R113). -/
theorem State.Fed.push_room (h : s.Fed xs t) (hs : s.Opened) (hroom : t.oidx ≠ t.cap)
    (hx : elemInRange s.sw s.soff x = true) (himage : t.countPush.unitOutsideImage x = false) :
    s.Fed (xs ++ [x]) (t.pushElement x) := by
  obtain ⟨hoidx, hlt⟩ := h.oidx_of_room hroom
  obtain ⟨hoff, -⟩ := h.pending hroom
  obtain ⟨hacc, hout, hidx, hkept, hwritten, hpending⟩ := (h.hasRoom hs hroom).pushElement_groups
    (by rwa [h.sw, h.soff]) (h.accAny.trans hs.accAny) (h.outAny.trans hs.outAny) himage
    (by rw [hoff, h.sw, State.restOf_length]) (h.pendingBits_eq hs hroom hx)
  rw [h.tw, h.cap, hoidx] at hidx hkept hwritten hpending
  rw [h.toff, h.oewsel] at hwritten
  have hbefore : s.filled xs = s.wholeGroups xs := h.oidx.symm.trans hoidx
  have hfilled : s.filled (xs ++ [x]) = s.wholeGroups xs +
      min ((s.restOf xs x).length / s.tw.toNat) (s.cap.toNat - s.wholeGroups xs) := by
    rw [State.filled, hs.wholeGroups_snoc]
    omega
  have hmono : s.filled xs ≤ s.filled (xs ++ [x]) := by
    rw [hbefore, hfilled]
    exact Nat.le_add_right _ _
  rw [← hfilled] at hidx hkept
  refine ⟨h.push_frame (hacc.trans hs.accAny.symm) (hout.trans hs.outAny.symm), hidx, fun i hi => ?written,
    fun i hi => ?kept, fun hroom' => ?pending⟩
  case written =>
    rcases Nat.lt_or_ge i (s.wholeGroups xs) with hold | hnew
    · rw [hkept i (.inl hold), State.outputOf_snoc (hbefore ▸ hold)]
      exact h.written i (hbefore ▸ hold)
    · obtain ⟨j, rfl⟩ := Nat.exists_eq_add_of_le hnew
      rw [hwritten j (by omega), State.restOf_group]
      rfl
  case kept =>
    rw [hkept i (.inr hi)]
    exact h.kept i (hmono.trans hi)
  case pending =>
    have hne : s.filled (xs ++ [x]) ≠ s.cap.toNat := fun heq =>
      hroom' (BitVec.eq_of_toNat_eq (by rw [hidx, heq, State.pushElement_cap, h.cap]))
    obtain ⟨hoff', hrest'⟩ := hpending (by omega)
    rw [hs.wholeGroups_snoc, State.streamOf_snoc_length, Nat.add_mul_mod_self_left]
    exact ⟨hoff', hrest'.trans (State.restOf_group _)⟩

/-- One more in-range element, whether or not the buffer has room (R111, R113). -/
theorem State.Fed.push (h : s.Fed xs t) (hs : s.Opened) (hx : elemInRange s.sw s.soff x = true)
    (himage : t.countPush.unitOutsideImage x = false) : s.Fed (xs ++ [x]) (t.pushElement x) := by
  by_cases hroom : t.oidx = t.cap
  · exact h.push_full hroom
  · exact h.push_room hs hroom hx himage

/-- Outside a decode session no element opens the outputs (log 6). -/
theorem State.unitOutsideImage_of_not_dec (hmode : s.mode ≠ .dec) (x : Elem) : s.unitOutsideImage x = false := by
  simp [State.unitOutsideImage, hmode]

/-- The PUSHes of in-range elements in a session that is no decode (R113). -/
theorem State.Opened.pushes (hs : s.Opened) (hmode : s.mode ≠ .dec) (xs : List Elem)
    (hxs : ∀ x ∈ xs, elemInRange s.sw s.soff x = true) : ∃ t, runCommands (xs.map .push) s = .next t ∧ s.Fed xs t := by
  induction xs using List.reverseRecOn with
  | nil => exact ⟨s, rfl, hs.fed_nil⟩
  | append_singleton xs x ih =>
    obtain ⟨t, hrun, ht⟩ := ih fun y hy => hxs y (List.mem_append_left _ hy)
    have himage : t.countPush.unitOutsideImage x = false :=
      State.unitOutsideImage_of_not_dec (by rwa [State.countPush_mode, ht.mode]) x
    refine ⟨t.pushElement x, ?_, ht.push hs (hxs x (by simp)) himage⟩
    have hpush : exec (.push x) t = .next (t.pushElement x) := exec_of_effect ⟨ht.active.trans hs.active, rfl⟩
    rw [List.map_append, runCommands, performAll_append_next hrun]
    exact performAll_cons_next hpush []

/-! ### FLUSH -/

/-- What the source's `realign` makes of the elements under the session's configuration (R113, R114). -/
def State.realigned (s : State) (xs : List Elem) : List Elem :=
  realign s.sw s.tw s.oewsel s.soff s.toff s.cap.toNat xs

/-- Rounding up adds 1 exactly when the division leaves a remainder (R8). -/
theorem ceilDiv_eq_div_add (a : Nat) {b : Nat} (hb : 0 < b) : ceilDiv a b = a / b + if a % b = 0 then 0 else 1 := by
  have hmod := Nat.mod_lt a hb
  have hsplit : a + b - 1 = a % b + b - 1 + b * (a / b) := by
    have := Nat.mod_add_div a b
    omega
  rw [ceilDiv, hsplit, Nat.add_mul_div_left _ _ hb, Nat.add_comm]
  congr 1
  split
  case isTrue hzero => exact Nat.div_eq_of_lt (by omega)
  case isFalse hpos => exact Nat.div_eq_of_lt_le (by omega) (by omega)

theorem State.realigned_length (s : State) (xs : List Elem) :
    (s.realigned xs).length = min (ceilDiv (s.streamOf xs).length s.tw.toNat) s.cap.toNat := by
  simp [State.realigned, realign, State.streamOf]

theorem State.realigned_getElem? {k : Nat} (hk : k < (s.realigned xs).length) :
    (s.realigned xs)[k]? = some (s.outputOf xs k) := by
  rw [State.realigned_length, State.streamOf, elemStream_length] at hk
  rw [State.realigned, realign, List.getElem?_map, List.getElem?_range hk]
  rfl

/-- The state `u` at the end of the session opened as `s` and fed the elements `xs`: the entries are the source's `realign` of the
elements, and no other entry is written (R113, R114). -/
structure State.Realigned (s : State) (xs : List Elem) (u : State) : Prop where
  frame : u = { s with
    icnt := s.icnt + BitVec.ofNat 32 xs.length, oidx := u.oidx, obuf := u.obuf, accOff := u.accOff, accRest := u.accRest,
    draws := u.draws, active := false, done := true }
  oidx : u.oidx.toNat = (s.realigned xs).length
  written : ∀ k, k < (s.realigned xs).length → u.obuf.read k = (s.realigned xs)[k]?
  kept : ∀ k, (s.realigned xs).length ≤ k → u.obuf.read k = s.obuf.read k

section
variable {u : State} (h : s.Realigned xs u)
include h

theorem State.Realigned.active : u.active = false := by rw [h.frame]
theorem State.Realigned.done : u.done = true := by rw [h.frame]
theorem State.Realigned.err : u.err = s.err := by rw [h.frame]
theorem State.Realigned.ecode : u.ecode = s.ecode := by rw [h.frame]
theorem State.Realigned.mode : u.mode = s.mode := by rw [h.frame]
theorem State.Realigned.cap : u.cap = s.cap := by rw [h.frame]
theorem State.Realigned.nlen : u.nlen = s.nlen := by rw [h.frame]
theorem State.Realigned.icnt : u.icnt = s.icnt + BitVec.ofNat 32 xs.length := by rw [h.frame]

end

/-- FLUSH leaves the frame of a fed session but for the flags that it ends (R112). -/
theorem State.Fed.flush_frame (h : s.Fed xs t) :
    let u := t.emitPending.endSession
    u = { s with
      icnt := s.icnt + BitVec.ofNat 32 xs.length, oidx := u.oidx, obuf := u.obuf, accOff := u.accOff,
      accRest := u.accRest, draws := u.draws, active := false, done := true } := by
  have hemit : t.emitPending = { t with
      oidx := t.emitPending.oidx, obuf := t.emitPending.obuf, accOff := t.emitPending.accOff,
      accRest := t.emitPending.accRest, draws := t.emitPending.draws } := by
    unfold State.emitPending
    split <;> rfl
  exact (congrArg State.endSession hemit).trans (congrArg (fun v : State => { v with
    oidx := t.emitPending.oidx, obuf := t.emitPending.obuf, accOff := t.emitPending.accOff,
    accRest := t.emitPending.accRest, draws := t.emitPending.draws, active := false, done := true }) h.frame)

/-- With no bit pending, or none that fits, the whole groups are all that the source's `realign` gives (R106, R112). -/
theorem State.Fed.flush_nothing (h : s.Fed xs t) (hs : s.Opened) (hnothing : t.accOff = 0 ∨ t.cap.toNat ≤ t.oidx.toNat) :
    s.Realigned xs t.emitPending.endSession := by
  have hoidx := h.oidx
  have hlen : (s.realigned xs).length = s.filled xs := by
    rw [State.realigned_length, ceilDiv_eq_div_add _ hs.tw_pos, State.filled, State.wholeGroups]
    rw [State.filled, State.wholeGroups] at hoidx
    by_cases hroom : t.oidx = t.cap
    · rw [hroom, h.cap] at hoidx
      split <;> omega
    · obtain ⟨hoff, -⟩ := h.pending hroom
      obtain ⟨-, hlt⟩ := h.oidx_of_room hroom
      have hzero : t.accOff = 0 := hnothing.resolve_right (by rw [h.cap]; omega)
      rw [if_pos (by rw [← hoff, hzero]; rfl)]
      rfl
  have hframe := h.flush_frame
  rw [State.emitPending_of_nothing hnothing] at hframe ⊢
  refine ⟨hframe, by rw [hlen]; exact hoidx, fun k hk => ?_, fun k hk => h.kept k (hlen ▸ hk)⟩
  rw [State.realigned_getElem? hk]
  exact h.written k (hlen ▸ hk)

/-- With bits pending and room for them, the group not yet complete is the last of the source's `realign` (R112, R113). -/
theorem State.Fed.flush_pending (h : s.Fed xs t) (hs : s.Opened) (hpending : t.accOff ≠ 0)
    (hroom : t.oidx.toNat < t.cap.toNat) : s.Realigned xs t.emitPending.endSession := by
  have hne : t.oidx ≠ t.cap := fun heq => hroom.ne (congrArg BitVec.toNat heq)
  obtain ⟨hoff, hrest⟩ := h.pending hne
  obtain ⟨hoidx, hlt⟩ := h.oidx_of_room hne
  have hfilled : s.filled xs = s.wholeGroups xs := h.oidx.symm.trans hoidx
  have hlen : (s.realigned xs).length = s.wholeGroups xs + 1 := by
    have hmod : (s.streamOf xs).length % s.tw.toNat ≠ 0 := fun hzero =>
      hpending (BitVec.eq_of_toNat_eq (hoff.trans hzero))
    rw [State.realigned_length, ceilDiv_eq_div_add _ hs.tw_pos, if_neg hmod]
    exact Nat.min_eq_left (show s.wholeGroups xs < _ from hoidx ▸ hlt)
  have hframe := h.flush_frame
  rw [State.emitPending_of_pending hpending hroom] at hframe ⊢
  have hlast : outputValue t.toff t.oewsel t.accRest.toNat = s.outputOf xs (s.wholeGroups xs) := by
    rw [h.toff, h.oewsel, hrest]
    rfl
  have hread : ∀ k, (t.emit (t.accAny || t.outAny) t.accRest.toNat).endSession.obuf.read k =
      if k = s.wholeGroups xs then some (s.outputOf xs (s.wholeGroups xs)) else t.obuf.read k := fun k => by
    rw [State.endSession_obuf, State.emit_obuf, Memory.read_write, hoidx, ← hlast, h.accAny, h.outAny, hs.accAny, hs.outAny]
    rfl
  refine ⟨hframe, ?oidx, fun k hk => ?written, fun k hk => ?kept⟩
  case oidx => rw [hlen, ← hoidx]; exact State.oidx_succ hroom
  case written =>
    rw [hread, State.realigned_getElem? hk]
    split
    case isTrue heq => rw [heq]
    case isFalse hneq => exact h.written k (by omega)
  case kept =>
    rw [hread, if_neg (by omega)]
    exact h.kept k (by omega)

/-- FLUSH of a fed session completes the source's `realign` (R112, R113, R114). -/
theorem State.Fed.flush (h : s.Fed xs t) (hs : s.Opened) : s.Realigned xs t.emitPending.endSession := by
  by_cases hnothing : t.accOff = 0 ∨ t.cap.toNat ≤ t.oidx.toNat
  · exact h.flush_nothing hs hnothing
  · obtain ⟨hpending, hroom⟩ := not_or.mp hnothing
    exact h.flush_pending hs hpending (Nat.not_le.mp hroom)

/-- The PUSHes and the FLUSH of a session that is no decode: the bitstream law (R113). -/
theorem State.Opened.feed_realigned (hs : s.Opened) (hmode : s.mode ≠ .dec) (xs : List Elem)
    (hxs : ∀ x ∈ xs, elemInRange s.sw s.soff x = true) : ∃ u, runCommands (feed xs) s = .next u ∧ s.Realigned xs u := by
  obtain ⟨t, hrun, ht⟩ := hs.pushes hmode xs hxs
  have hflush : exec .flush t = .next t.emitPending.endSession := exec_of_effect ⟨ht.active.trans hs.active, rfl⟩
  refine ⟨t.emitPending.endSession, ?_, ht.flush hs⟩
  rw [feed, runCommands, performAll_append_next hrun]
  exact performAll_cons_next hflush []

end

end Sys2Proof.Machine

/-! The encoder (41_encoder.md R142, R144, R145): a whole ENCODE gives the source's `encode`, and the ranges of its units. -/

namespace Sys2Proof.Machine

/-- n bytes fill `ceil(4n / 7)` data units: the groups of their 8n bits (R140). -/
theorem ceilDiv_bytes (n : Nat) : ceilDiv (n * 8) 14 = ceilDiv (4 * n) 7 := by
  unfold ceilDiv
  omega

/-! ### The units and their ranges -/

/-- The data units of an encode, before the terminator (R142). -/
def dataUnits (bytes : List Elem) : List Elem := realign 8 14 1 0 dataBase (encodeCapacity bytes.length) bytes

theorem encodeUnits_eq (bytes : List Elem) : encodeUnits bytes = dataUnits bytes ++ [terminatorUnit bytes.length] := rfl

/-- Data unit k of an encode (R104, R113). -/
def dataUnit (bytes : List Elem) (k : Nat) : Elem := outputValue dataBase 1 (streamGroup 14 (elemStream 8 0 bytes) k)

/-- The groups of the bytes all fit below the terminator's place (R142). -/
theorem dataUnits_eq_map (bytes : List Elem) :
    dataUnits bytes = (List.range (ceilDiv (4 * bytes.length) 7)).map (dataUnit bytes) := by
  have hfit : min (ceilDiv (bytes.length * 8) 14) (encodeCapacity bytes.length) = ceilDiv (4 * bytes.length) 7 := by
    rw [ceilDiv_bytes, encodeCapacity]
    exact Nat.min_eq_left (Nat.le_succ _)
  rw [← hfit]
  rfl

/-- A data unit is its group plus 0x4E00: nothing is cut off (R144). -/
theorem dataUnit_toNat (bytes : List Elem) (k : Nat) :
    (dataUnit bytes k).toNat = streamGroup 14 (elemStream 8 0 bytes) k + 0x4E00 := by
  have hlt : streamGroup 14 (elemStream 8 0 bytes) k < 2 ^ 14 := streamGroup_lt
  rw [dataUnit, outputValue]
  generalize streamGroup 14 (elemStream 8 0 bytes) k = g at hlt ⊢
  simp [oewOf, dataBase]
  omega

theorem terminatorUnit_toNat (n : Nat) : (terminatorUnit n).toNat = n % 7 + 0x3D00 := by
  simp [terminatorUnit, termBase]
  omega

/-- The low bits of the last data unit's group that no byte reaches are 0 (R145). -/
theorem lastGroup_padBits {n : Nat} {stream : List Bool} (hlen : stream.length = 8 * n) :
    streamGroup 14 stream (ceilDiv (4 * n) 7 - 1) % 2 ^ ((14 - 8 * n % 14) % 14) = 0 := by
  by_cases hwhole : 8 * n % 14 = 0
  · rw [hwhole]
    exact Nat.mod_one _
  · have hpos := Nat.pos_of_ne_zero hwhole
    have hk : ceilDiv (4 * n) 7 - 1 = stream.length / 14 := by
      rw [hlen, ceilDiv]
      omega
    rw [hk, streamGroup_last (by norm_num), hlen, Nat.mod_eq_of_lt (show 14 - 8 * n % 14 < 14 by omega)]
    exact Nat.mul_mod_left _ _

/-- Settles O50, from the data units as groups of the bytes' stream. -/
theorem encodedUnitsHaveTheirRanges : Obligations.EncodedUnitsHaveTheirRanges := by
  intro bytes _
  rw [encodeUnits_eq, dataUnits_eq_map, List.dropLast_concat]
  refine ⟨by simp, fun u hu => ?data, fun u hu => ?terminator, fun u hu => ?pad⟩
  case data =>
    obtain ⟨k, -, rfl⟩ := List.mem_map.mp hu
    have hlt : streamGroup 14 (elemStream 8 0 bytes) k < 2 ^ 14 := streamGroup_lt
    rw [dataUnit_toNat]
    omega
  case terminator =>
    rw [List.getLast?_concat, Option.some.injEq] at hu
    rw [← hu, terminatorUnit_toNat]
    omega
  case pad =>
    have hne : ceilDiv (4 * bytes.length) 7 ≠ 0 := fun hzero => by simp [hzero] at hu
    have hlen : (elemStream 8 0 bytes).length = 8 * bytes.length := by
      rw [elemStream_length, Nat.mul_comm]
      rfl
    rw [List.getLast?_map, List.getLast?_range, if_neg hne, Option.map_some, Option.some.injEq] at hu
    rw [← hu, dataUnit_toNat, Nat.add_sub_cancel]
    exact lastGroup_padBits hlen

/-! ### The run of an ENCODE -/

/-- The encode session of n bytes that ESTART opens in the state `s` (R140). -/
def encodeSession (s : State) (n : Nat) : State := effectState (.estart (BitVec.ofNat 28 n)) s

theorem encodeSession_opened (s : State) (n : Nat) : (encodeSession s n).Opened :=
  ⟨rfl, (by decide : cfgLegal 8 14 1 = true), rfl, rfl, rfl, rfl, rfl⟩

/-- An entry that the session wrote reads as its content (R61, R74). -/
theorem State.entry_of_read {s : State} {i : Nat} {v : Elem} (hwrote : s.sessionWrote i = true)
    (hread : s.obuf.read i = some v) : s.entry i = v := by
  rw [State.entry, hwrote, hread]

section
variable {s u : State} {bytes : List Elem}

/-- Every byte is in range in an encode session (R103, R142). -/
theorem encodeSession_inRange (n : Nat) {b : Elem} (hb : b.toNat < 0x100) :
    elemInRange (encodeSession s n).sw (encodeSession s n).soff b = true :=
  (elemInRange_iff _ _ _).mpr ⟨Nat.zero_le _, (Nat.zero_add _).symm ▸ hb⟩

/-- ESTART, the PUSHes and FLUSH of an ENCODE: the bitstream law for its bytes (R113, R142). -/
theorem encode_feed (hidle : s.active = false) (hlen : bytes.length < 2 ^ 28)
    (hfits : encodeCapacity bytes.length ≤ s.depth.toNat) (hbytes : ∀ b ∈ bytes, b.toNat < 0x100) :
    ∃ u, runCommands (.estart (BitVec.ofNat 28 bytes.length) :: feed bytes) s = .next u ∧
      (encodeSession s bytes.length).Realigned bytes u := by
  have hn : (BitVec.ofNat 28 bytes.length).toNat = bytes.length := Nat.mod_eq_of_lt hlen
  have hstart : exec (.estart (BitVec.ofNat 28 bytes.length)) s = .next (encodeSession s bytes.length) :=
    exec_of_effect ⟨hidle, by rwa [hn], rfl⟩
  obtain ⟨u, hrun, hu⟩ := (encodeSession_opened s bytes.length).feed_realigned nofun bytes
    fun b hb => encodeSession_inRange bytes.length (hbytes b hb)
  exact ⟨u, (performAll_cons_next hstart _).trans hrun, hu⟩

/-! ### What ETERM finds, and the entries it leaves -/

section
variable (hlen : bytes.length < 2 ^ 28) (hfits : encodeCapacity bytes.length ≤ s.depth.toNat)
  (hu : (encodeSession s bytes.length).Realigned bytes u)

include hlen hu in
theorem encoded_nlen : u.nlen.toNat = bytes.length := by
  rw [hu.nlen]
  exact Nat.mod_eq_of_lt hlen

include hlen hu in
/-- As many PUSHes are counted as ESTART declared (R35, R41, R141). -/
theorem encoded_icnt : u.icnt.toNat = bytes.length := by
  have hzero : (encodeSession s bytes.length).icnt = 0#32 := rfl
  rw [hu.icnt, hzero, BitVec.zero_add]
  exact Nat.mod_eq_of_lt (hlen.trans (by norm_num))

include hlen hfits hu

theorem encoded_cap : u.cap.toNat = encodeCapacity bytes.length := by
  have hn : (BitVec.ofNat 28 bytes.length).toNat = bytes.length := Nat.mod_eq_of_lt hlen
  have hcap : (encodeSession s bytes.length).cap =
      BitVec.ofNat 28 (encodeCapacity (BitVec.ofNat 28 bytes.length).toNat) := rfl
  rw [hu.cap, hcap, hn, toNat_ofNat_capacity hfits]

theorem encoded_realigned : (encodeSession s bytes.length).realigned bytes = dataUnits bytes := by
  rw [State.realigned, ← hu.cap, encoded_cap hlen hfits hu]
  rfl

/-- The data units end below the terminator's place (R143). -/
theorem encoded_oidx : u.oidx.toNat = ceilDiv (4 * bytes.length) 7 := by
  rw [hu.oidx, encoded_realigned hlen hfits hu, dataUnits_eq_map, List.length_map, List.length_range]

/-- The entries of a flushed encode session are the data units (R142). -/
theorem encoded_read {k : Nat} (hk : k < ceilDiv (4 * bytes.length) 7) : u.obuf.read k = some (dataUnit bytes k) := by
  rw [← encoded_oidx hlen hfits hu, hu.oidx] at hk
  exact (hu.written k hk).trans (State.realigned_getElem? hk)

/-- ETERM of a flushed encode session completes the source's `encode` (R141, R142). -/
theorem encoded_entries : u.writeTerminator.entries (encodeCapacity bytes.length) = encodeUnits bytes := by
  have hcap := encoded_cap hlen hfits hu
  have hoidx := encoded_oidx hlen hfits hu
  have hobuf : u.writeTerminator.obuf = u.obuf.write (ceilDiv (4 * bytes.length) 7) (terminatorUnit bytes.length) := by
    rw [State.writeTerminator_obuf, hcap, encoded_nlen hlen hu, encodeCapacity, Nat.add_sub_cancel]
  have hdata : ∀ k ∈ List.range (ceilDiv (4 * bytes.length) 7), u.writeTerminator.entry k = dataUnit bytes k := by
    intro k hk
    rw [List.mem_range] at hk
    refine State.entry_of_read (by simp [State.sessionWrote, hoidx, hk]) ?_
    rw [hobuf, Memory.read_write_other _ _ hk.ne, encoded_read hlen hfits hu hk]
  have hterm : u.writeTerminator.entry (ceilDiv (4 * bytes.length) 7) = terminatorUnit bytes.length :=
    State.entry_of_read (by simp [State.sessionWrote, hcap, encodeCapacity]) (by rw [hobuf, Memory.read_write_same])
  rw [State.entries, encodeCapacity, List.range_succ, List.map_append, List.map_congr_left hdata, List.map_singleton, hterm,
    encodeUnits_eq, dataUnits_eq_map]

end

end

/-- Settles O48: the bitstream law gives the data units, ETERM's checks pass, and ETERM adds the terminator. -/
theorem encodeGivesTheSourcesUnits : Obligations.EncodeGivesTheSourcesUnits := by
  intro s bytes hidle hlen hfits hbytes
  obtain ⟨u, hrun, hu⟩ := encode_feed hidle hlen hfits hbytes
  have hcap := encoded_cap hlen hfits hu
  have hcount : u.icnt.toNat = u.nlen.toNat := (encoded_icnt hlen hu).trans (encoded_nlen hlen hu).symm
  have heterm : exec .eterm u = .next u.writeTerminator := exec_of_effect ⟨hu.active, hu.mode, hu.done, hcount, rfl⟩
  refine ⟨u.writeTerminator, ?run, hu.err, hu.ecode, hcap, ?entries, hu.active, hu.done, hu.mode⟩
  case run => exact (performAll_append_next hrun [.eterm]).trans (performAll_cons_next heterm [])
  case entries =>
    rw [State.writeTerminator_cap, hcap]
    exact encoded_entries hlen hfits hu

end Sys2Proof.Machine

/-! The decoder framing commands DTERM and DSTART (42_decoder.md R150, R151), one command at a time. -/

namespace Sys2Proof.Machine

/-- DSTART's byte count in the terms of the statements: for the divisor 4 Lean's `/` on the integers is the floor (R151). -/
theorem decodeCount_eq (resid : Elem) (l : Nat) :
    decodeCount resid l = Int.fdiv ((l : Int) - 1) 4 * 7 + if resid = 0 then 7 else (resid.toNat : Int) := by
  have hfloor : Int.fdiv ((l : Int) - 1) 4 = ((l : Int) - 1) / 4 := Int.fdiv_eq_ediv_of_nonneg _ (by decide)
  have hresidue : (effectiveResidue resid : Int) = if resid = 0 then 7 else (resid.toNat : Int) := by
    unfold effectiveResidue
    split <;> rfl
  rw [decodeCount, hfloor, hresidue]

/-- A byte count within DEPTH is encodable in CAP's 28 bits (R34, R42, R151). -/
theorem toNat_ofNat_byteCount {n : Int} {s : State} (hnonneg : 0 ≤ n) (hdepth : n ≤ (s.depth.toNat : Int)) :
    ((BitVec.ofNat 28 n.toNat).toNat : Int) = n := by
  rw [toNat_ofNat_capacity (Int.toNat_le.mpr hdepth), Int.toNat_of_nonneg hnonneg]

/-- Settles O23: DTERM's one check, and its effect for every unit. -/
theorem dtermLatchesResidue : Obligations.DtermLatchesResidue := fun t s =>
  ⟨decode_encode (.dterm t), fun hopen => exec_refused (c := .busy) (by simp [checks, hopen]),
    fun hidle => exec_of_effect ⟨hidle, rfl⟩⟩

/-- Settles O24: DSTART's three checks in order, and the session it opens when all pass. -/
theorem dstartOpensDecodeSession : Obligations.DstartOpensDecodeSession := by
  intro l s r n
  have hn : decodeCount s.resid l.toNat = n := decodeCount_eq s.resid l.toNat
  refine ⟨decode_encode (.dstart l), fun hopen => ?busy, fun hidle hresidue => exec_dstart_without_residue hidle hresidue l,
    fun hidle hresidue hcap => ?cap, fun hidle hresidue hnonneg hdepth => ?effect⟩
  case busy => exact exec_refused (c := .busy) (by simp [checks, hopen])
  case cap => exact exec_refused (c := .cap) (by simp [checks, hidle, hresidue, hn, hcap])
  case effect =>
    rw [← hn] at hnonneg hdepth ⊢
    exact ⟨_, exec_of_effect ⟨hidle, hresidue, hnonneg, hdepth, rfl⟩, toNat_ofNat_byteCount hnonneg hdepth, rfl⟩

end Sys2Proof.Machine

/-! The control commands NOP, ABORT and CLRERR (43_control.md R160, R161, R162). None of them makes a check, so each has its effect
in every state; what they refuse is a word of theirs with a reserved bit set. -/

namespace Sys2Proof.Machine

/-- The clause of R88 for format N, for one opcode of that format. -/
theorem step_formatN_reservedBits {s : State} {w : Word} {rest : List HostEvent} {op : BitVec 4}
    (hformat : op ∈ ([0x0, 0x9, 0xA, 0xB, 0xC] : List (BitVec 4))) (hport : s.port = .command w :: rest)
    (hop : w.field 28 4 = op) (hbits : w.field 0 28 ≠ 0) :
    step s = .next (State.refusedWith 1 { s with port := rest }) := by
  obtain ⟨hformatN, -⟩ := reservedBitsWordIsRefused s w rest hport
  exact hformatN (hop ▸ hformat) hbits

/-- Settles O17: NOP's effect is the state itself. -/
theorem nopChangesNothing : Obligations.NopChangesNothing :=
  ⟨decode_encode .nop, fun _ => exec_of_effect (i := .nop) rfl, fun _ _ _ => step_formatN_reservedBits (by decide)⟩

/-- Settles O33: ABORT's effect is the four fields it clears. -/
theorem abortAbandonsTheSession : Obligations.AbortAbandonsTheSession :=
  ⟨decode_encode .abort, fun _ => exec_of_effect (i := .abort) rfl, fun _ _ _ => step_formatN_reservedBits (by decide)⟩

/-- Settles O34: CLRERR's effect is the cleared record, and the refusal of its illegal word sets it. -/
theorem clrerrClearsTheErrorRecord : Obligations.ClrerrClearsTheErrorRecord :=
  ⟨decode_encode .clrerr, fun _ => exec_of_effect (i := .clrerr) rfl, fun _ _ _ => step_formatN_reservedBits (by decide)⟩

end Sys2Proof.Machine

/-! The statements about reset and hazards (70_reset_and_hazards.md R230, R234): the configuration of an open session, and the
reset state. -/

namespace Sys2Proof.Machine

/-! ### The frozen configuration -/

/-- The two states have the same configuration: the registers that R234 freezes while a session is open. -/
def State.SameConfiguration (s t : State) : Prop :=
  t.sw = s.sw ∧ t.tw = s.tw ∧ t.oewsel = s.oewsel ∧ t.soff = s.soff ∧ t.toff = s.toff ∧ t.cap = s.cap ∧
    t.nlen = s.nlen ∧ t.resid = s.resid

theorem State.SameConfiguration.refl (s : State) : s.SameConfiguration s := ⟨rfl, rfl, rfl, rfl, rfl, rfl, rfl, rfl⟩

/-- A refusal keeps the configuration (R201). -/
theorem State.raise_sameConfiguration (c : Cause) (s : State) : s.SameConfiguration (s.raise c) := .refl s

/-- PUSH keeps the configuration (R111). -/
theorem State.pushElement_sameConfiguration (x : Elem) (s : State) : s.SameConfiguration (s.pushElement x) := by
  simp [State.SameConfiguration]

/-- FLUSH keeps the configuration (R112). -/
theorem State.flush_sameConfiguration (s : State) : s.SameConfiguration s.emitPending.endSession := by
  simp [State.SameConfiguration]

/-- The commands that have an effect in an open session are NOP, PUSH, FLUSH, ABORT and CLRERR, and none of them writes the
configuration; the effect of every other command wants ACTIVE = 0 (R234). -/
theorem Effect.sameConfiguration {i : Instr} {s t : State} (h : Effect i s t) (hopen : s.active = true) :
    s.SameConfiguration t := by
  cases i with
  | nop | abort | clrerr =>
    obtain rfl := h
    exact .refl _
  | push x =>
    obtain ⟨-, rfl⟩ := h
    exact s.pushElement_sameConfiguration x
  | flush =>
    obtain ⟨-, rfl⟩ := h
    exact s.flush_sameConfiguration
  | cfgw | cfgso | cfgto | gstart | estart | dterm | dstart | eterm =>
    obtain ⟨hidle, -⟩ := h
    exact absurd hopen (by simp [hidle])

/-- No command changes the configuration of an open session, refused or not (R234). -/
theorem exec_sameConfiguration {i : Instr} {s t : State} (h : exec i s = .next t) (hopen : s.active = true) :
    s.SameConfiguration t := by
  obtain ⟨c, -, rfl, -⟩ | heffect := exec_cases h
  · exact s.raise_sameConfiguration c
  · exact heffect.sameConfiguration hopen

/-- The first check of each of the eight commands that R234 names is the one for an open session (R203). -/
theorem checks_head_of_frozen {sw tw : Width} {o : BitVec 1} {e : Elem} {n : Count} {i : Instr}
    (hi : i ∈ [Instr.cfgw sw tw o, .cfgso e, .cfgto e, .gstart n, .estart n, .dterm e, .dstart n, .eterm]) (s : State) :
    (checks i s).head? = some (s.active, .busy) := by
  simp only [List.mem_cons, List.not_mem_nil, or_false] at hi
  obtain rfl | rfl | rfl | rfl | rfl | rfl | rfl | rfl := hi <;> rfl

/-- A command whose first check is the one for an open session is refused with E_BUSY in it, whatever its other checks say (R203). -/
theorem exec_busy {i : Instr} {s : State} (hhead : (checks i s).head? = some (s.active, .busy)) (hopen : s.active = true) :
    exec i s = .next (s.refusedWith 2) := by
  obtain ⟨rest, hchecks⟩ := List.head?_eq_some_iff.mp hhead
  exact exec_refused (c := .busy) (by rw [hchecks, hopen, firstCause])

/-- Settles O37: what the effects in an open session keep, and the first check of the eight commands. -/
theorem configurationIsFrozenInASession : Obligations.ConfigurationIsFrozenInASession :=
  ⟨fun _ _ _ => exec_sameConfiguration, fun s hopen _ _ _ _ _ _ hi => exec_busy (checks_head_of_frozen hi s) hopen⟩

/-! ### The reset state -/

/-- An entry without known content reads as a free value, whether or not the session wrote it (R61, R74). -/
theorem State.entry_of_unread {s : State} {i : Nat} (hread : s.obuf.read i = none) :
    s.entry i = Config.staleEntry s.staleDraw i := by
  rw [State.entry, hread]
  cases s.sessionWrote i <;> rfl

/-- With no event on the port the block waits (R213). -/
theorem step_of_no_event {s : State} (hport : s.port = []) : step s = .next s := by
  simp only [step, takeEvent, hport]

/-- The reset state lists no entry, so none has known content (R230). -/
@[simp] theorem State.reset_obuf_read (i : Nat) : State.reset.obuf.read i = none := rfl

/-- Settles O13: the registers are the fields of `State.resetAt`; the buffer and the wait follow from the empty list and port. -/
theorem resetStateIsTheTables : Obligations.ResetStateIsTheTables :=
  ⟨rfl, rfl, rfl, rfl, rfl, rfl, rfl, rfl, rfl, rfl, rfl, rfl, rfl, rfl, rfl, rfl, rfl, rfl, rfl,
    fun i => ⟨State.reset_obuf_read i, State.entry_of_unread (State.reset_obuf_read i)⟩, step_of_no_event rfl⟩

end Sys2Proof.Machine

/-! The statements about the encoding (30_encoding.md R82 to R92): the encoder undoes the decoder, the opcode map's match
and mask, and the assembler's words. -/

namespace Sys2Proof.Machine

/-! ### The encoder undoes the decoder -/

/-- Settles O1, from the decoder's agreement with the encoder format by format. -/
theorem decodeOfEncodeIsTheCommand : Obligations.DecodeOfEncodeIsTheCommand := decode_encode

section
variable {w : Word}

/-- A word of format N is its OP, the reserved bits being 0 (R82). -/
theorem encodeN_op_eq (hzero : w.field 0 28 = 0) : encodeN (w.field 28 4) = w := by
  simp only [field_eq_iff, BitVec.ofNat_eq_ofNat, BitVec.toNat_ofNat] at hzero
  have := w.isLt
  refine BitVec.eq_of_toNat_eq ?_
  rw [encodeN_toNat, Word.field_toNat]
  omega

/-- A word of format W is its three fields, the reserved bits being 0 (R83). -/
theorem encodeW_fields_eq (hop : w.field 28 4 = 0x1)
    (hzero : w.field 17 11 = 0 ∧ w.field 13 3 = 0 ∧ w.field 5 3 = 0) :
    encodeW (w.field 0 5) (w.field 8 5) (w.field 16 1) = w := by
  simp only [field_eq_iff, BitVec.ofNat_eq_ofNat, BitVec.toNat_ofNat] at hop hzero
  refine BitVec.eq_of_toNat_eq ?_
  rw [encodeW_toNat, Word.field_toNat, Word.field_toNat, Word.field_toNat]
  omega

/-- A word of format H is its OP and its immediate, the reserved bits being 0 (R84). -/
theorem encodeH_fields_eq (hzero : w.field 16 12 = 0) : encodeH (w.field 28 4) (w.field 0 16) = w := by
  simp only [field_eq_iff, BitVec.ofNat_eq_ofNat, BitVec.toNat_ofNat] at hzero
  have := w.isLt
  refine BitVec.eq_of_toNat_eq ?_
  rw [encodeH_toNat, Word.field_toNat, Word.field_toNat]
  omega

/-- A word of format L is its OP and its immediate (R85). -/
theorem encodeL_fields_eq : encodeL (w.field 28 4) (w.field 0 28) = w := by
  have := w.isLt
  refine BitVec.eq_of_toNat_eq ?_
  rw [encodeL_toNat, Word.field_toNat, Word.field_toNat]
  omega

variable {op : BitVec 4} {i j : Instr}

theorem decodeWhen_eq_command {b : Bool} (h : decodeWhen b i = .command j) : b = true ∧ i = j := by
  cases b with
  | false => exact nomatch h
  | true => exact ⟨rfl, Decoded.command.inj h⟩

theorem encode_of_decodeN (h : decodeN w i = .command j) (hi : encode i = encodeN op)
    (hop : (w.field 28 4).toNat = op.toNat) : encode j = w := by
  obtain ⟨hzero, rfl⟩ := decodeWhen_eq_command h
  rw [hi, ← BitVec.eq_of_toNat_eq hop, encodeN_op_eq (eq_of_beq hzero)]

theorem encode_of_decodeW (h : decodeW w = .command j) (hop : (w.field 28 4).toNat = 0x1) : encode j = w := by
  obtain ⟨hzero, rfl⟩ := decodeWhen_eq_command h
  simp only [Bool.and_eq_true, beq_iff_eq, and_assoc] at hzero
  exact encodeW_fields_eq (BitVec.eq_of_toNat_eq hop) hzero

theorem encode_of_decodeH {c : Elem → Instr} (h : decodeH w c = .command j)
    (hi : ∀ imm, encode (c imm) = encodeH op imm) (hop : (w.field 28 4).toNat = op.toNat) : encode j = w := by
  obtain ⟨hzero, rfl⟩ := decodeWhen_eq_command h
  rw [hi, ← BitVec.eq_of_toNat_eq hop, encodeH_fields_eq (eq_of_beq hzero)]

theorem encode_of_decodeL {c : Count → Instr} (h : decodeL w c = .command j)
    (hi : ∀ imm, encode (c imm) = encodeL op imm) (hop : (w.field 28 4).toNat = op.toNat) : encode j = w := by
  obtain rfl := Decoded.command.inj h
  rw [hi, ← BitVec.eq_of_toNat_eq hop, encodeL_fields_eq]

/-- OP selects the format, and in each format the word is its fields (R81, R90). -/
theorem encode_of_decode (h : decode w = .command j) : encode j = w := by
  unfold decode at h
  split at h
  case h_1 hop | h_10 hop | h_11 hop | h_12 hop | h_13 hop => exact encode_of_decodeN h rfl hop
  case h_2 hop => exact encode_of_decodeW h hop
  case h_3 hop | h_4 hop | h_7 hop | h_9 hop => exact encode_of_decodeH h (fun _ => rfl) hop
  case h_5 hop | h_6 hop | h_8 hop => exact encode_of_decodeL h (fun _ => rfl) hop
  case h_14 => exact nomatch h

/-- The words of a command: the one that encodes it (R90). -/
theorem decode_eq_command_iff : decode w = .command j ↔ encode j = w :=
  ⟨encode_of_decode, fun h => h ▸ decode_encode j⟩

end

/-- Settles O2, from the word as the sum of its format's fields. -/
theorem encodeOfDecodeIsTheWord : Obligations.EncodeOfDecodeIsTheWord := fun _ _ => encode_of_decode

/-- Settles O4: each word is the encoding of its command. -/
theorem sampleWordsDecode : Obligations.SampleWordsDecode := by
  simp only [Obligations.SampleWordsDecode, decode_eq_command_iff]
  decide

/-! ### Match and mask -/

/-- The field of a masked word is the masked field (R86). -/
theorem Word.field_and (w mask : Word) (lo len : Nat) :
    Word.field (w &&& mask) lo len = w.field lo len &&& mask.field lo len := BitVec.extractLsb'_and

section
variable {w : Word}

theorem matches_iff (bits mask : Word) : OpcodeRow.matches ⟨bits, mask⟩ w = true ↔ w &&& mask = bits := beq_iff_eq

/-- A row of format N fixes every bit (R82, R86). -/
theorem matches_formatN_iff (op : BitVec 4) : OpcodeRow.matches ⟨encodeN op, 0xFFFFFFFF⟩ w = true ↔ encodeN op = w := by
  have hmask : w &&& 0xFFFFFFFF = w := BitVec.and_allOnes
  rw [matches_iff, hmask, eq_comm]

/-- A row of format W leaves the three fields open (R83, R86). -/
theorem matches_formatW_iff :
    OpcodeRow.matches ⟨encodeW 0 0 0, 0xFFFEE0E0⟩ w = true ↔ ∃ sw tw o, encodeW sw tw o = w := by
  rw [matches_iff]
  refine ⟨fun h => ?_, ?_⟩
  · obtain ⟨hhigh, hmiddle, hlow⟩ := encodeW_reserved 0 0 0
    rw [← h, Word.field_and] at hhigh hmiddle hlow
    have hop := encodeW_op 0 0 0
    rw [← h, Word.field_and] at hop
    exact ⟨_, _, _, encodeW_fields_eq (BitVec.and_allOnes.symm.trans hop) ⟨BitVec.and_allOnes.symm.trans hhigh,
      BitVec.and_allOnes.symm.trans hmiddle, BitVec.and_allOnes.symm.trans hlow⟩⟩
  · rintro ⟨sw, tw, o, rfl⟩
    change ((0x1 : BitVec 4) ++ (0 : BitVec 11) ++ o ++ (0 : BitVec 3) ++ tw ++ (0 : BitVec 3) ++ sw) &&&
      (BitVec.allOnes 4 ++ BitVec.allOnes 11 ++ (0 : BitVec 1) ++ BitVec.allOnes 3 ++ (0 : Width) ++ BitVec.allOnes 3 ++
        (0 : Width)) = encodeW 0 0 0
    rw [encodeW]
    simp only [BitVec.and_append, BitVec.and_allOnes, BitVec.and_zero, BitVec.ofNat_eq_ofNat]

/-- A row of format H leaves the immediate open (R84, R86). -/
theorem matches_formatH_iff (op : BitVec 4) :
    OpcodeRow.matches ⟨encodeH op 0, 0xFFFF0000⟩ w = true ↔ ∃ imm, encodeH op imm = w := by
  rw [matches_iff]
  refine ⟨fun h => ?_, ?_⟩
  · have hop := encodeH_op op 0
    have hzero := encodeH_reserved op 0
    rw [← h, Word.field_and] at hop hzero
    have hop' : w.field 28 4 = op := BitVec.and_allOnes.symm.trans hop
    exact ⟨_, hop' ▸ encodeH_fields_eq (BitVec.and_allOnes.symm.trans hzero)⟩
  · rintro ⟨imm, rfl⟩
    change (op ++ (0 : BitVec 12) ++ imm) &&& (BitVec.allOnes 4 ++ BitVec.allOnes 12 ++ (0 : Elem)) = encodeH op 0
    rw [encodeH]
    simp only [BitVec.and_append, BitVec.and_allOnes, BitVec.and_zero, BitVec.ofNat_eq_ofNat]

/-- A row of format L leaves the immediate open (R85, R86). -/
theorem matches_formatL_iff (op : BitVec 4) :
    OpcodeRow.matches ⟨encodeL op 0, 0xF0000000⟩ w = true ↔ ∃ imm, encodeL op imm = w := by
  rw [matches_iff]
  refine ⟨fun h => ?_, ?_⟩
  · have hop := encodeL_op op 0
    rw [← h, Word.field_and] at hop
    have hop' : w.field 28 4 = op := BitVec.and_allOnes.symm.trans hop
    exact ⟨_, hop' ▸ encodeL_fields_eq⟩
  · rintro ⟨imm, rfl⟩
    change (op ++ imm) &&& (BitVec.allOnes 4 ++ (0 : Count)) = encodeL op 0
    rw [encodeL]
    simp only [BitVec.and_append, BitVec.and_allOnes, BitVec.and_zero, BitVec.ofNat_eq_ofNat]

/-- The words of a row are the encodings of its commands (R86). -/
theorem row_matches_iff (i : Instr) : i.row.matches w = true ↔ ∃ j, encode j = w ∧ j.row = i.row := by
  constructor
  case mp =>
    intro h
    cases i with
    | nop => exact ⟨.nop, (matches_formatN_iff 0x0).mp h, rfl⟩
    | flush => exact ⟨.flush, (matches_formatN_iff 0x9).mp h, rfl⟩
    | eterm => exact ⟨.eterm, (matches_formatN_iff 0xA).mp h, rfl⟩
    | abort => exact ⟨.abort, (matches_formatN_iff 0xB).mp h, rfl⟩
    | clrerr => exact ⟨.clrerr, (matches_formatN_iff 0xC).mp h, rfl⟩
    | cfgw =>
      obtain ⟨sw, tw, o, hw⟩ := matches_formatW_iff.mp h
      exact ⟨.cfgw sw tw o, hw, rfl⟩
    | cfgso => exact let ⟨imm, hw⟩ := (matches_formatH_iff 0x2).mp h; ⟨.cfgso imm, hw, rfl⟩
    | cfgto => exact let ⟨imm, hw⟩ := (matches_formatH_iff 0x3).mp h; ⟨.cfgto imm, hw, rfl⟩
    | dterm => exact let ⟨imm, hw⟩ := (matches_formatH_iff 0x6).mp h; ⟨.dterm imm, hw, rfl⟩
    | push => exact let ⟨imm, hw⟩ := (matches_formatH_iff 0x8).mp h; ⟨.push imm, hw, rfl⟩
    | gstart => exact let ⟨imm, hw⟩ := (matches_formatL_iff 0x4).mp h; ⟨.gstart imm, hw, rfl⟩
    | estart => exact let ⟨imm, hw⟩ := (matches_formatL_iff 0x5).mp h; ⟨.estart imm, hw, rfl⟩
    | dstart => exact let ⟨imm, hw⟩ := (matches_formatL_iff 0x7).mp h; ⟨.dstart imm, hw, rfl⟩
  case mpr =>
    rintro ⟨j, rfl, hrow⟩
    rw [← hrow]
    cases j with
    | nop | flush | eterm | abort | clrerr => exact (matches_formatN_iff _).mpr rfl
    | cfgw sw tw o => exact matches_formatW_iff.mpr ⟨sw, tw, o, rfl⟩
    | cfgso imm | cfgto imm | dterm imm | push imm => exact (matches_formatH_iff _).mpr ⟨imm, rfl⟩
    | gstart imm | estart imm | dstart imm => exact (matches_formatL_iff _).mpr ⟨imm, rfl⟩

/-- Every command's row is in the opcode map (R86). -/
theorem row_mem_opcodeMap (i : Instr) : i.row ∈ opcodeMap := by
  cases i <;> simp [opcodeMap, Instr.row]

/-- A word is legal when it encodes some command (R86, R90). -/
theorem legal_iff : w.legal = true ↔ ∃ j, encode j = w := by
  rw [Word.legal, List.any_eq_true]
  constructor
  · rintro ⟨r, hr, hmatch⟩
    obtain ⟨i, -, rfl⟩ := List.mem_map.mp hr
    obtain ⟨j, hj, -⟩ := (row_matches_iff i).mp hmatch
    exact ⟨j, hj⟩
  · rintro ⟨j, hj⟩
    exact ⟨j.row, row_mem_opcodeMap j, (row_matches_iff j).mpr ⟨j, hj, rfl⟩⟩

/-- An illegal word decodes to no command (R87, R88). -/
theorem legal_eq_false_iff : w.legal = false ↔ ∃ why, decode w = .illegal why := by
  rw [← Bool.not_eq_true, legal_iff]
  simp only [← decode_eq_command_iff]
  cases decode w <;> simp

end

/-- Settles O3: the words of a row are the encodings of its commands, and decoding is the converse of encoding. -/
theorem wordDecodesByMatchAndMask : Obligations.WordDecodesByMatchAndMask := by
  refine ⟨fun w i => ?_, fun w => legal_eq_false_iff⟩
  simp only [row_matches_iff, decode_eq_command_iff]

/-! ### The assembler's words -/

/-- The parts of a word do not overlap, so the table's bitwise or is their sum (R92). -/
theorem shifted_or {k a b : Nat} (hb : b < 2 ^ k) : a * 2 ^ k ||| b = a * 2 ^ k + b := by
  rw [Nat.mul_comm, Nat.two_pow_add_eq_or_of_lt hb]

theorem encodeH_ofNat {op : BitVec 4} {m n : Nat} (hm : m = op.toNat * 2 ^ 28) (hn : n ≤ 0xFFFF) :
    (encodeH op (BitVec.ofNat 16 n)).toNat = m ||| n := by
  rw [hm, encodeH_toNat, BitVec.toNat_ofNat, Nat.mod_eq_of_lt (by omega), shifted_or (by omega)]

theorem encodeL_ofNat {op : BitVec 4} {m n : Nat} (hm : m = op.toNat * 2 ^ 28) (hn : n ≤ 0xFFFFFFF) :
    (encodeL op (BitVec.ofNat 28 n)).toNat = m ||| n := by
  rw [hm, encodeL_toNat, BitVec.toNat_ofNat, Nat.mod_eq_of_lt (by omega), shifted_or (by omega)]

theorem encodeW_ofNat {sw tw : Nat} (o : BitVec 1) (hsw : sw ≤ 31) (htw : tw ≤ 31) :
    (encodeW (BitVec.ofNat 5 sw) (BitVec.ofNat 5 tw) o).toNat = 0x10000000 ||| o.toNat <<< 16 ||| tw <<< 8 ||| sw := by
  have ho := o.isLt
  have hsum : 0x10000000 ||| o.toNat <<< 16 ||| tw <<< 8 ||| sw = 2 ^ 28 + o.toNat * 2 ^ 16 + tw * 2 ^ 8 + sw := by
    rw [Nat.shiftLeft_eq, Nat.shiftLeft_eq, show 0x10000000 = 1 * 2 ^ 28 from rfl, shifted_or (by omega),
      show 1 * 2 ^ 28 + o.toNat * 2 ^ 16 = (2 ^ 12 + o.toNat) * 2 ^ 16 by ring, shifted_or (by omega),
      show (2 ^ 12 + o.toNat) * 2 ^ 16 + tw * 2 ^ 8 = ((2 ^ 12 + o.toNat) * 2 ^ 8 + tw) * 2 ^ 8 by ring,
      shifted_or (by omega)]
    ring
  rw [hsum, encodeW_toNat, BitVec.toNat_ofNat, BitVec.toNat_ofNat, Nat.mod_eq_of_lt (by omega),
    Nat.mod_eq_of_lt (by omega)]

/-- A command alone assembles when its operands are in range (R92). -/
theorem assembleLine_command (c : AsmCommand) :
    assembleLine (.command c) = if c.inRange = true then some [c.toInstr] else none := by
  simp [assembleLine, SourceLine.wellFormed, SourceLine.listInRange, SourceLine.expand]

/-- Settles O5: the range check of one command, and the sum of its word's fields as the table's bitwise or. -/
theorem assemblerWordsAreTheTables : Obligations.AssemblerWordsAreTheTables := by
  refine ⟨fun c hc => ?_, fun c hc => ⟨?_, ?_⟩⟩
  · rw [assembleLine_command, hc, if_neg Bool.false_ne_true]
  · rw [assembleLine_command, if_pos hc]
  · cases c with
    | nop | flush | eterm | abort | clrerr => rfl
    | cfgso imm | cfgto imm | dterm imm | push imm =>
      have himm : imm ≤ 0xFFFF := of_decide_eq_true hc
      exact encodeH_ofNat rfl himm
    | gstart imm | estart imm | dstart imm =>
      have himm : imm ≤ 0xFFFFFFF := of_decide_eq_true hc
      exact encodeL_ofNat rfl himm
    | cfgw sw tw oew =>
      simp only [AsmCommand.inRange, Bool.and_eq_true, decide_eq_true_eq] at hc
      obtain ⟨⟨hsw, htw⟩, -⟩ := hc
      have hsel : (if oew = 16 then 1 else 0 : BitVec 1).toNat = if oew = 16 then 1 else 0 := by split <;> rfl
      exact (encodeW_ofNat _ hsw htw).trans (by rw [hsel])

end Sys2Proof.Machine

/-! The statements about the error record and the registers over all commands (10_state.md, 60_exceptions.md R201 to R205):
a refusal changes the record alone, the first cause is kept, each register has its writers, and none depends on the output
buffer. -/

namespace Sys2Proof.Machine

/-! ### The error record -/

/-- The state with another error record and other events waiting: what no effect but CLRERR's looks at. -/
def State.withAside (err : Bool) (ecode : BitVec 4) (es : List HostEvent) (s : State) : State :=
  { s with err := err, ecode := ecode, port := es }

section
variable (err : Bool) (ecode : BitVec 4) (es : List HostEvent) (s : State)

@[simp] theorem State.withAside_tw : (s.withAside err ecode es).tw = s.tw := rfl
@[simp] theorem State.withAside_outAny : (s.withAside err ecode es).outAny = s.outAny := rfl
@[simp] theorem State.withAside_full : (s.withAside err ecode es).full = s.full := rfl
@[simp] theorem State.withAside_emit (any : Bool) (g : Nat) :
    (s.withAside err ecode es).emit any g = (s.emit any g).withAside err ecode es := rfl
@[simp] theorem State.withAside_setAcc (off rest : Nat) (any : Bool) :
    (s.withAside err ecode es).setAcc off rest any = (s.setAcc off rest any).withAside err ecode es := rfl

/-- The loop of PUSH does not look at the error record or the port (R111). -/
theorem pushLoop_withAside (value : Nat) (e : Bool) (fuel off rest : Nat) (ra : Bool) :
    pushLoop value e fuel off rest ra (s.withAside err ecode es) =
      (pushLoop value e fuel off rest ra s).withAside err ecode es := by
  induction fuel generalizing off rest ra s with
  | zero => rfl
  | succ fuel ih =>
    simp only [pushLoop, State.withAside_tw, State.withAside_outAny, State.withAside_emit, State.withAside_full,
      State.withAside_setAcc, ih, apply_ite (State.withAside err ecode es)]

theorem State.withAside_takeElement (x : Elem) :
    (s.withAside err ecode es).takeElement x = (s.takeElement x).withAside err ecode es := by
  have hopen : (s.withAside err ecode es).unitOutsideImage x = s.unitOutsideImage x := rfl
  unfold State.takeElement
  rw [hopen]
  split
  · exact pushLoop_withAside err ecode es s.leaveImage _ _ _ _ _ _
  · exact pushLoop_withAside err ecode es s _ _ _ _ _ _

/-- No effect but CLRERR's looks at the error record or the port, or changes them (R27, R162). -/
theorem effectState_withAside {i : Instr} (hi : i ≠ .clrerr) :
    effectState i (s.withAside err ecode es) = (effectState i s).withAside err ecode es := by
  cases i with
  | clrerr => exact absurd rfl hi
  | push x =>
    rw [effectState, effectState, State.pushElement, State.pushElement, apply_ite (State.withAside err ecode es),
      ← State.withAside_takeElement]
    rfl
  | flush =>
    have hemit : (s.withAside err ecode es).emitPending = s.emitPending.withAside err ecode es := by
      rw [State.emitPending, State.emitPending, apply_ite (State.withAside err ecode es)]
      rfl
    rw [effectState, hemit]
    rfl
  | _ => rfl

/-- Whether a command is refused does not depend on the error record or the port (R201, R203). -/
theorem checks_withAside (i : Instr) : checks i (s.withAside err ecode es) = checks i s := by
  cases i <;> rfl

end

theorem firstCause_mem {l : List (Bool × Cause)} {c : Cause} (h : firstCause l = some c) : c ∈ l.map Prod.snd := by
  induction l with
  | nil => exact nomatch h
  | cons e l ih =>
    obtain ⟨b, d⟩ := e
    rw [firstCause_cons] at h
    split at h
    case isTrue => exact Option.some.inj h ▸ List.mem_cons_self
    case isFalse => exact List.mem_cons_of_mem _ (ih h)

/-- E_ILLEGAL is the cause of no check: it refuses words, not commands (R90, R202). -/
theorem illegal_not_mem_checks (i : Instr) (s : State) : Cause.illegal ∉ (checks i s).map Prod.snd := by
  cases i <;> simp [checks]

/-- A refused command has one of the causes 2 to 6 (R202). -/
theorem checks_code {i : Instr} {s : State} {c : Cause} (h : firstCause (checks i s) = some c) :
    2 ≤ c.code.toNat ∧ c.code.toNat ≤ 6 := by
  have hmem := firstCause_mem h
  cases c with
  | illegal => exact absurd hmem (illegal_not_mem_checks i s)
  | _ => decide

theorem effectState_record {i : Instr} (s : State) (hi : i ≠ .clrerr) :
    (effectState i s).err = s.err ∧ (effectState i s).ecode = s.ecode := by
  have h : effectState i s = (effectState i s).withAside s.err s.ecode s.port :=
    effectState_withAside s.err s.ecode s.port s hi
  constructor <;> rw [h] <;> rfl

/-- No effect sets ERR (R201). -/
theorem effectState_err_eq_false (i : Instr) {s : State} (hs : s.err = false) : (effectState i s).err = false := by
  by_cases hi : i = .clrerr
  · rw [hi]
    rfl
  · exact (effectState_record s hi).1.trans hs

/-- Settles O36: a refusal keeps a record that is not empty, and no effect but CLRERR's touches it. -/
theorem firstCauseIsKept : Obligations.FirstCauseIsKept := by
  intro i s t h herr hi
  obtain ⟨c, rfl⟩ | rfl := exec_eq_raise_or_effectState h
  · exact ⟨rfl, by rw [State.raise_ecode, if_pos herr]⟩
  · obtain ⟨he, hc⟩ := effectState_record s hi
    exact ⟨he.trans herr, hc⟩

/-- While an error is recorded a refusal leaves the whole state as it is (R201). -/
theorem State.refusedWith_of_err {s : State} (herr : s.err = true) (code : BitVec 4) : s.refusedWith code = s := by
  have hecode : (if s.err = false then code else s.ecode) = s.ecode := if_neg (by simp [herr])
  rw [State.refusedWith, hecode, ← herr]

/-- Settles O35: the checks do not depend on the record, a refusal changes it alone, and an effect leaves it. -/
theorem refusedCommandChangesOnlyTheRecord : Obligations.RefusedCommandChangesOnlyTheRecord := by
  intro i s t h
  change exec i (s.withAside false 0 s.port) = .next t at h
  have hchecks := checks_withAside false 0 s.port s i
  cases hc : firstCause (checks i s) with
  | some c =>
    rw [exec_refused (hchecks ▸ hc)] at h
    cases h
    have hexec := exec_refused hc
    refine ⟨fun _ => ⟨(checks_code hc).1, (checks_code hc).2, fun herr => ?_, fun herr => ?_⟩, fun herr => nomatch herr⟩
    · rw [hexec, State.refusedWith, if_pos herr]
      rfl
    · rw [hexec, State.refusedWith_of_err herr]
  | none =>
    rw [exec_eq_perform, perform_effect _ _ (hchecks ▸ hc)] at h
    cases h
    have herr := effectState_err_eq_false i (s := s.withAside false 0 s.port) rfl
    refine ⟨fun hraised => absurd (herr.symm.trans hraised) Bool.false_ne_true, fun _ hi => ?_⟩
    rw [exec_eq_perform, perform_effect _ s hc]
    rw [effectState_withAside _ _ _ s hi]
    exact congrArg _ (effectState_withAside s.err s.ecode s.port s hi)

/-! ### The writers of the registers -/

/-- Settles O38: a refusal writes none of these registers, and of each effect the frame says which it leaves alone. -/
theorem registersHaveOnlyTheirWriters : Obligations.RegistersHaveOnlyTheirWriters := by
  intro i s t h
  obtain ⟨c, rfl⟩ | rfl := exec_eq_raise_or_effectState h
  · have same : ∀ {α : Type} {a : α} {p : Prop}, a ≠ a → p := fun hne => absurd rfl hne
    exact ⟨fun hw => hw.elim same (·.elim same same), same, same, (·.elim same same), same,
      fun hw => hw.elim same (·.elim same same), same, same, same, same, same, rfl⟩
  · cases i <;> simp [effectState]

/-! ### No register depends on the output buffer -/

/-- The two states have the same registers: they differ in OBUF, the model's draw counters and the last reply alone. -/
def State.SameRegisters (s u : State) : Prop :=
  ∃ m d e r, u = { s with obuf := m, draws := d, staleDraw := e, reply := r }

section
variable {s u : State}

theorem State.SameRegisters.emit (h : s.SameRegisters u) (any : Bool) (g : Nat) :
    (s.emit any g).SameRegisters (u.emit any g) := by
  obtain ⟨m, d, e, r, rfl⟩ := h
  exact ⟨_, _, _, _, rfl⟩

theorem State.SameRegisters.setAcc (h : s.SameRegisters u) (off rest : Nat) (any : Bool) :
    (s.setAcc off rest any).SameRegisters (u.setAcc off rest any) := by
  obtain ⟨m, d, e, r, rfl⟩ := h
  exact ⟨_, _, _, _, rfl⟩

theorem State.SameRegisters.full (h : s.SameRegisters u) : u.full = s.full := by
  obtain ⟨m, d, e, r, rfl⟩ := h
  rfl

/-- The turns of the loop are decided by registers alone (R111). -/
theorem State.SameRegisters.pushLoop (h : s.SameRegisters u) (value : Nat) (e : Bool) (fuel off rest : Nat) (ra : Bool) :
    (pushLoop value e fuel off rest ra s).SameRegisters (pushLoop value e fuel off rest ra u) := by
  induction fuel generalizing off rest ra s u with
  | zero =>
    obtain ⟨m, d, e, r, rfl⟩ := h
    exact ⟨_, _, _, _, rfl⟩
  | succ fuel ih =>
    have htw : u.tw = s.tw := by obtain ⟨m, d, e, r, rfl⟩ := h; rfl
    have hout : u.outAny = s.outAny := by obtain ⟨m, d, e, r, rfl⟩ := h; rfl
    have hemit := h.emit (ra || e || s.outAny) (groupValue s.tw.toNat rest value (off - s.tw.toNat))
    simp only [Machine.pushLoop, htw, hout, hemit.full]
    split
    · split
      · exact hemit.setAcc _ _ _
      · exact ih hemit _ _ _
    · exact h.setAcc _ _ _

theorem State.SameRegisters.takeElement (h : s.SameRegisters u) (x : Elem) :
    (s.takeElement x).SameRegisters (u.takeElement x) := by
  have hopen : u.unitOutsideImage x = s.unitOutsideImage x := by obtain ⟨m, d, e, r, rfl⟩ := h; rfl
  have hstart : State.SameRegisters (if s.unitOutsideImage x then s.leaveImage else s)
      (if u.unitOutsideImage x then u.leaveImage else u) := by
    obtain ⟨m, d, e, r, rfl⟩ := h
    rw [hopen]
    split <;> exact ⟨_, _, _, _, rfl⟩
  have hloop := hstart.pushLoop (inputValue s.sw s.soff x) (!elemInRange s.sw s.soff x) (s.accOff.toNat + s.sw.toNat)
    (s.accOff.toNat + s.sw.toNat) s.accRest.toNat s.accAny
  have hs := s.takeElement_eq x
  have hu := u.takeElement_eq x
  simp only at hs hu
  obtain ⟨m, d, e, r, rfl⟩ := h
  rw [hs, hu]
  exact hloop

theorem State.SameRegisters.pushElement (h : s.SameRegisters u) (x : Elem) :
    (s.pushElement x).SameRegisters (u.pushElement x) := by
  have hcount : s.countPush.SameRegisters u.countPush := by
    obtain ⟨m, d, e, r, rfl⟩ := h
    exact ⟨_, _, _, _, rfl⟩
  simp only [State.pushElement, hcount.full]
  split
  · exact hcount
  · exact hcount.takeElement x

theorem State.SameRegisters.emitPending (h : s.SameRegisters u) : s.emitPending.SameRegisters u.emitPending := by
  obtain ⟨m, d, e, r, rfl⟩ := h
  unfold State.emitPending
  split <;> exact ⟨_, _, _, _, rfl⟩

/-- Every effect takes the registers from the registers (R43, R230). -/
theorem State.SameRegisters.effectState (h : s.SameRegisters u) (i : Instr) :
    (effectState i s).SameRegisters (effectState i u) := by
  cases i with
  | push x => exact h.pushElement x
  | flush =>
    obtain ⟨m, d, e, r, hu⟩ := h.emitPending
    exact ⟨m, d, e, r, congrArg State.endSession hu⟩
  | _ =>
    obtain ⟨m, d, e, r, rfl⟩ := h
    exact ⟨_, _, _, _, rfl⟩

end

/-- Settles O42: the checks and the effects read registers alone. -/
theorem registersDoNotDependOnTheBuffer : Obligations.RegistersDoNotDependOnTheBuffer := by
  intro i s m d e r
  have hsame : s.SameRegisters { s with obuf := m, draws := d, staleDraw := e, reply := r } := ⟨m, d, e, r, rfl⟩
  have hchecks : checks i { s with obuf := m, draws := d, staleDraw := e, reply := r } = checks i s := by cases i <;> rfl
  cases hc : firstCause (checks i s) with
  | some c =>
    exact ⟨_, _, (exec_eq_perform i s).trans (perform_refuse _ s hc),
      (exec_eq_perform i _).trans (perform_refuse _ _ (hchecks ▸ hc)), rfl⟩
  | none =>
    obtain ⟨m', d', e', r', hu⟩ := hsame.effectState i
    refine ⟨_, _, (exec_eq_perform i s).trans (perform_effect _ s hc),
      (exec_eq_perform i _).trans (perform_effect _ _ (hchecks ▸ hc)), ?_⟩
    rw [hu]

/-! ### The canonical form of the output buffer -/

/-- The loop of PUSH writes one entry at a time, and a write keeps the form (R63, log 2). -/
theorem pushLoop_wf {s : State} (h : s.obuf.wf) (value : Nat) (e : Bool) (fuel off rest : Nat) (ra : Bool) :
    (pushLoop value e fuel off rest ra s).obuf.wf := by
  induction fuel generalizing off rest ra s with
  | zero => exact h
  | succ fuel ih =>
    have hemit : ∀ any g, (s.emit any g).obuf.wf := fun _ _ => Memory.write_wf h _ _
    simp only [pushLoop]
    split
    · split
      · exact hemit _ _
      · exact ih (hemit _ _) _ _ _
    · exact h

theorem State.pushElement_wf {s : State} (h : s.obuf.wf) (x : Elem) : (s.pushElement x).obuf.wf := by
  by_cases hfull : s.countPush.full = true
  · rw [State.pushElement, if_pos hfull]
    exact h
  · rw [State.pushElement, if_neg hfull, State.takeElement]
    refine pushLoop_wf ?_ _ _ _ _ _ _
    split
    · exact Memory.redraw_wf h _ _
    · exact h

theorem State.emitPending_wf {s : State} (h : s.obuf.wf) : s.emitPending.obuf.wf := by
  unfold State.emitPending
  split
  · exact Memory.write_wf h _ _
  · exact h

theorem effectState_wf {s : State} (h : s.obuf.wf) (i : Instr) : (effectState i s).obuf.wf := by
  cases i with
  | push x => exact State.pushElement_wf h x
  | flush => exact State.emitPending_wf h
  | eterm => exact Memory.write_wf h _ _
  | _ => exact h

theorem exec_wf {i : Instr} {s t : State} (h : s.obuf.wf) (hexec : exec i s = .next t) : t.obuf.wf := by
  obtain ⟨c, rfl⟩ | rfl := exec_eq_raise_or_effectState hexec
  · exact h
  · exact effectState_wf h i

/-- Settles O46: the events that write the buffer are commands, and a reset empties it. -/
theorem canonicalBufferIsKeptByEveryStep : Obligations.CanonicalBufferIsKeptByEveryStep := by
  intro s t h hstep
  obtain ⟨-, rfl⟩ | ⟨e, rest, -, hevent⟩ := step_cases hstep
  · exact h
  · obtain ⟨w, i, -, -, hexec⟩ | ⟨w, why, -, -, rfl⟩ | ⟨addr, -, rfl⟩ | ⟨-, rfl⟩ := hevent
    · exact exec_wf (by exact h) hexec
    · exact h
    · exact h
    · exact List.Pairwise.nil

end Sys2Proof.Machine

/-! The invariant of the block (10_state.md R24 to R40, 20_memory.md R63): it holds at reset, and every step keeps each of
its parts. -/

namespace Sys2Proof.Machine

/-! ### The invariant at reset -/

theorem State.resetAt_inv {depth : Count} (h : 1 ≤ depth.toNat) : (State.resetAt depth).Inv where
  errorRecord := ⟨fun _ => rfl, nofun⟩
  sessionFlags := by simp [State.SessionFlagsOk, State.resetAt]
  widths := ⟨.inr ⟨rfl, rfl, rfl⟩, nofun⟩
  capacity := ⟨le_rfl, Nat.zero_le _, h⟩
  accumulator := nofun
  preset := ⟨nofun, nofun, nofun, nofun⟩
  buffer := ⟨.nil, fun _ _ => rfl, fun i hi => by simp [State.sessionWrote, State.resetAt] at hi⟩

/-- OBUF_DEPTH is at least 1 (R6). -/
theorem one_le_obufDepth : 1 ≤ Config.obufDepth.toNat := by
  have hlt := Config.obufDepthPred.isLt
  rw [Config.obufDepth, BitVec.toNat_ofNat, Nat.mod_eq_of_lt (by omega)]
  exact Nat.le_add_left 1 _

/-- Settles O44, for whatever OBUF_DEPTH is. -/
theorem invariantHoldsAtReset : Obligations.InvariantHoldsAtReset := State.resetAt_inv one_le_obufDepth

/-- A reset between two commands gives the reset state but for what the invariant does not speak of (R231). -/
theorem State.Inv.hostReset {s : State} (h : s.Inv) : s.hostReset.Inv :=
  have hreset := State.resetAt_inv h.capacity.2.2
  ⟨hreset.errorRecord, hreset.sessionFlags, hreset.widths, hreset.capacity, hreset.accumulator, hreset.preset,
    hreset.buffer⟩

/-! ### What a PUSH with room writes -/

/-- The number of groups that a PUSH with room emits (R106, R111). -/
def State.emits (s : State) : Nat := min ((s.accOff.toNat + s.sw.toNat) / s.tw.toNat) (s.cap.toNat - s.oidx.toNat)

theorem State.emits_le_room (s : State) : s.emits ≤ s.cap.toNat - s.oidx.toNat := Nat.min_le_right _ _

theorem State.keptEntry_beyond (x : Elem) {s : State} {i : Nat} (hi : s.cap.toNat ≤ i) :
    s.keptEntry x i = s.obuf.read i :=
  if_neg fun h => absurd h.2 (Nat.not_lt.mpr hi)

theorem State.keptEntry_isSome (x : Elem) (s : State) (i : Nat) :
    (s.keptEntry x i).isSome = (s.obuf.read i).isSome := by
  unfold State.keptEntry
  split
  · exact Option.isSome_map
  · rfl

section
variable {s : State} (hs : s.HasRoom) (x : Elem)
include hs

/-- The element step, for the state before its PUSH is counted. -/
theorem State.HasRoom.push_spec :
    let t := s.pushElement x
    let tw := s.tw.toNat
    let off := s.accOff.toNat + s.sw.toNat
    let opens := s.countPush.unitOutsideImage x
    let elemAny := !elemInRange s.sw s.soff x
    let draw := if opens then s.draws + s.cap.toNat else s.draws
    let k := off / tw
    let room := s.cap.toNat - s.oidx.toNat
    let bits := pendingBits tw s.accOff.toNat s.sw.toNat s.accRest.toNat (inputValue s.sw s.soff x)
    t.oidx.toNat = s.oidx.toNat + min k room ∧
    (k < room →
      t.accOff.toNat = off % tw ∧ t.accRest.toNat = bits % 2 ^ (off % tw) * 2 ^ (tw - off % tw) ∧
      t.accAny = (decide (off % tw ≠ 0) && ((decide (k = 0) && s.accAny) || elemAny))) ∧
    (room ≤ k → t.accOff.toNat = off - room * tw ∧ t.accRest = 0 ∧ t.accAny = false) ∧
    (∀ i, i < s.oidx.toNat ∨ s.oidx.toNat + min k room ≤ i → t.obuf.read i = s.countPush.keptEntry x i) ∧
    (∀ j, j < min k room → t.obuf.read (s.oidx.toNat + j) = some
      (if (decide (j = 0) && s.accAny) || elemAny || (opens || s.outAny) then Config.anyOutput (draw + j)
       else outputValue s.toff s.oewsel (bits / 2 ^ (off - (j + 1) * tw) % 2 ^ tw))) := by
  rw [State.pushElement_of_room x hs.room]
  exact State.takeElement_spec x hs.countPush

/-- Each entry from OIDX on that a PUSH writes has content (R43, R63). -/
theorem State.HasRoom.push_read_written {i : Nat} (hlow : s.oidx.toNat ≤ i) (hhigh : i < (s.pushElement x).oidx.toNat) :
    ∃ v, (s.pushElement x).obuf.read i = some v := by
  obtain ⟨hoidx, -, -, -, hwritten⟩ := hs.push_spec x
  obtain ⟨j, rfl⟩ := Nat.exists_eq_add_of_le hlow
  exact ⟨_, hwritten j (by omega)⟩

/-- Every other entry is kept, but for a redraw (log 6). -/
theorem State.HasRoom.push_read_kept {i : Nat} (hi : i < s.oidx.toNat ∨ (s.pushElement x).oidx.toNat ≤ i) :
    (s.pushElement x).obuf.read i = s.countPush.keptEntry x i := by
  obtain ⟨hoidx, -, -, hkept, -⟩ := hs.push_spec x
  exact hkept i (by omega)

/-- A PUSH leaves every entry from CAP on as it was (R63). -/
theorem State.HasRoom.push_read_beyond {i : Nat} (hi : s.cap.toNat ≤ i) :
    (s.pushElement x).obuf.read i = s.obuf.read i := by
  have hroom := hs.room
  have hoidx : (s.pushElement x).oidx.toNat = s.oidx.toNat + s.emits := hs.pushElement_oidx x
  have hemits := s.emits_le_room
  rw [hs.push_read_kept x (.inr (by omega))]
  exact State.keptEntry_beyond x hi

/-- A PUSH forgets no entry (R43). -/
theorem State.HasRoom.push_read_isSome {i : Nat} (hi : (s.obuf.read i).isSome = true) :
    ((s.pushElement x).obuf.read i).isSome = true := by
  by_cases hw : s.oidx.toNat ≤ i ∧ i < (s.pushElement x).oidx.toNat
  · obtain ⟨v, hv⟩ := hs.push_read_written x hw.1 hw.2
    rw [hv, Option.isSome_some]
  · rw [hs.push_read_kept x (by omega), State.keptEntry_isSome]
    exact hi

/-- Where the entries below OIDX have content, they have it after an element too (R43, R63). -/
theorem State.HasRoom.push_known (hknown : ∀ i, i < s.oidx.toNat → (s.obuf.read i).isSome = true) {i : Nat}
    (hi : i < (s.pushElement x).oidx.toNat) : ((s.pushElement x).obuf.read i).isSome = true := by
  by_cases hold : i < s.oidx.toNat
  · exact hs.push_read_isSome x (hknown i hold)
  · obtain ⟨v, hv⟩ := hs.push_read_written x (Nat.not_lt.mp hold) hi
    rw [hv, Option.isSome_some]

end

/-! ### The part of each command in the invariant -/

theorem Memory.read_write_isSome {m : Memory} {k : Nat} (h : (m.read k).isSome = true) (i : Nat) (v : Elem) :
    ((m.write i v).read k).isSome = true := by
  rw [Memory.read_write]
  split
  · rfl
  · exact h

theorem State.sessionWrote_iff (s : State) (i : Nat) :
    s.sessionWrote i = true ↔ i < s.oidx.toNat ∨ s.termWritten = true ∧ i + 1 = s.cap.toNat := by
  simp [State.sessionWrote]

/-- A session just opened has no bit pending (R102). -/
theorem State.accumulatorOk_of_opened {t : State} (hlegal : cfgLegal t.sw t.tw t.oewsel = true) (hoff : t.accOff = 0)
    (hrest : t.accRest = 0) : t.AccumulatorOk := by
  obtain ⟨hsw, -, htw, -⟩ := (cfgLegal_iff _ _ _).mp hlegal
  refine fun _ => ⟨fun _ => ?_, fun _ => ⟨hrest, hoff ▸ hsw⟩⟩
  rw [hoff, hrest]
  exact ⟨htw, Nat.two_pow_pos _, Nat.zero_mod _⟩

/-- An element with room leaves fewer than TW bits pending, at the top with zeros below, or fills the buffer (R37, R39,
R106). -/
theorem State.HasRoom.push_accumulatorOk {s : State} (hs : s.HasRoom) (x : Elem) : (s.pushElement x).AccumulatorOk := by
  have hroom := hs.room
  have htw := hs.tw_pos
  have hoff := hs.off_lt
  obtain ⟨hoidx, hopen, hfull, -, -⟩ := hs.push_spec x
  refine fun _ => ⟨fun hne => ?_, fun heq => ?_⟩
  · rw [State.full_eq_false, State.pushElement_cap, hoidx] at hne
    obtain ⟨hacc, hrest, -⟩ := hopen (by omega)
    have hmod := Nat.mod_lt (s.accOff.toNat + s.sw.toNat) htw
    rw [hacc, hrest, State.pushElement_tw]
    refine ⟨hmod, ?_, Nat.mul_mod_left _ _⟩
    calc _ < 2 ^ ((s.accOff.toNat + s.sw.toNat) % s.tw.toNat) *
          2 ^ (s.tw.toNat - (s.accOff.toNat + s.sw.toNat) % s.tw.toNat) :=
            Nat.mul_lt_mul_of_pos_right (Nat.mod_lt _ (Nat.two_pow_pos _)) (Nat.two_pow_pos _)
      _ = 2 ^ s.tw.toNat := by rw [← pow_add, Nat.add_sub_cancel' hmod.le]
  · rw [State.full_eq_true, State.pushElement_cap, hoidx] at heq
    obtain ⟨hacc, hrest, -⟩ := hfull (by omega)
    have hone : 1 * s.tw.toNat ≤ (s.cap.toNat - s.oidx.toNat) * s.tw.toNat := Nat.mul_le_mul_right _ (by omega)
    have hsw := hs.sw_pos
    exact ⟨hrest, by rw [hacc, State.pushElement_sw]; omega⟩

section
variable {s t : State} {i : Instr} (h : s.Inv)
include h

theorem State.Inv.raise (c : Cause) : (s.raise c).Inv where
  errorRecord := by
    refine ⟨nofun, fun _ => ?_⟩
    rw [State.raise_ecode]
    split
    case isTrue herr => exact h.errorRecord.2 herr
    case isFalse => cases c <;> decide
  sessionFlags := h.sessionFlags
  widths := h.widths
  capacity := h.capacity
  accumulator := h.accumulator
  preset := h.preset
  buffer := h.buffer

variable (e : Effect i s t)
include e

theorem Effect.errorRecordOk : t.ErrorRecordOk := by
  obtain rfl := e.eq_effectState
  by_cases hi : i = .clrerr
  · rw [hi]
    exact ⟨fun _ => rfl, nofun⟩
  · obtain ⟨herr, hecode⟩ := effectState_record s hi
    rw [State.ErrorRecordOk, herr, hecode]
    exact h.errorRecord

theorem Effect.sessionFlagsOk : t.SessionFlagsOk := by
  cases i with
  | nop | cfgw | cfgso | cfgto | dterm | eterm | clrerr =>
    obtain rfl := e.eq_effectState
    exact h.sessionFlags
  | gstart | estart | dstart | abort =>
    obtain rfl := e.eq_effectState
    simp [State.SessionFlagsOk, effectState]
  | push x =>
    obtain ⟨-, rfl⟩ := e
    simpa [State.SessionFlagsOk] using h.sessionFlags
  | flush =>
    obtain ⟨hopen, rfl⟩ := e
    simpa [State.SessionFlagsOk, hopen] using h.sessionFlags.2

theorem Effect.widthsOk : t.WidthsOk := by
  cases i with
  | nop | cfgso | cfgto | dterm | eterm | clrerr =>
    obtain rfl := e.eq_effectState
    exact h.widths
  | cfgw =>
    obtain ⟨-, hlegal, rfl⟩ := e
    exact ⟨.inl hlegal, fun _ => hlegal⟩
  | gstart =>
    obtain ⟨-, hlegal, -, rfl⟩ := e
    exact ⟨.inl hlegal, fun _ => hlegal⟩
  | estart =>
    obtain rfl := e.eq_effectState
    exact ⟨.inl (by decide : cfgLegal 8 14 1 = true), fun _ => (by decide : cfgLegal 8 14 1 = true)⟩
  | dstart =>
    obtain rfl := e.eq_effectState
    exact ⟨.inl (by decide : cfgLegal 14 8 0 = true), fun _ => (by decide : cfgLegal 14 8 0 = true)⟩
  | push x =>
    obtain ⟨-, rfl⟩ := e
    simpa [State.WidthsOk] using h.widths
  | flush =>
    obtain ⟨-, rfl⟩ := e
    simpa [State.WidthsOk] using h.widths.1
  | abort =>
    obtain rfl := e
    exact ⟨h.widths.1, nofun⟩

theorem Effect.capacityOk : t.CapacityOk := by
  obtain ⟨hoidx, hcap, hdepth⟩ := h.capacity
  cases i with
  | nop | cfgw | cfgso | cfgto | dterm | eterm | abort | clrerr =>
    obtain rfl := e.eq_effectState
    exact h.capacity
  | gstart =>
    obtain ⟨-, -, hfits, rfl⟩ := e
    exact ⟨Nat.zero_le _, hfits, hdepth⟩
  | estart =>
    obtain ⟨-, hfits, rfl⟩ := e
    exact ⟨Nat.zero_le _, (toNat_ofNat_capacity hfits).trans_le hfits, hdepth⟩
  | dstart =>
    obtain ⟨-, -, hnonneg, hfits, rfl⟩ := e
    have hfits' := Int.toNat_le.mpr hfits
    exact ⟨Nat.zero_le _, (toNat_ofNat_capacity hfits').trans_le hfits', hdepth⟩
  | push x =>
    obtain ⟨hopen, rfl⟩ := e
    have hbounds := h.pushElement_oidx_bounds hopen x
    simpa [State.CapacityOk, hbounds.2.1] using ⟨hcap, hdepth⟩
  | flush =>
    obtain ⟨-, rfl⟩ := e
    have hbounds := h.emitPending_oidx_bounds
    simpa [State.CapacityOk, hbounds.2.2] using ⟨hcap, hdepth⟩

theorem Effect.accumulatorOk : t.AccumulatorOk := by
  cases i with
  | nop | clrerr =>
    obtain rfl := e.eq_effectState
    exact h.accumulator
  | cfgw | cfgso | cfgto | dterm | eterm =>
    obtain ⟨hidle, -⟩ := id e
    obtain rfl := e.eq_effectState
    exact fun hopen => absurd (hidle.symm.trans hopen) Bool.false_ne_true
  | gstart =>
    obtain ⟨-, hlegal, -, rfl⟩ := e
    exact State.accumulatorOk_of_opened hlegal rfl rfl
  | estart =>
    obtain rfl := e.eq_effectState
    exact State.accumulatorOk_of_opened (by decide : cfgLegal 8 14 1 = true) rfl rfl
  | dstart =>
    obtain rfl := e.eq_effectState
    exact State.accumulatorOk_of_opened (by decide : cfgLegal 14 8 0 = true) rfl rfl
  | push x =>
    obtain ⟨hopen, rfl⟩ := e
    by_cases hfull : s.oidx = s.cap
    · rw [State.pushElement_of_full x hfull]
      exact h.accumulator
    · exact (h.hasRoom hopen hfull).push_accumulatorOk x
  | flush | abort =>
    obtain rfl := e.eq_effectState
    exact nofun

theorem Effect.presetOk : t.PresetOk := by
  obtain ⟨henc, hdec, hgen, hcap⟩ := h.preset
  cases i with
  | nop | dterm | eterm | clrerr =>
    obtain rfl := e.eq_effectState
    exact h.preset
  | cfgw | cfgso | cfgto =>
    obtain ⟨hidle, -⟩ := id e
    obtain rfl := e.eq_effectState
    exact ⟨fun hopen => absurd (hidle.symm.trans hopen) Bool.false_ne_true,
      fun hopen => absurd (hidle.symm.trans hopen) Bool.false_ne_true, hgen, hcap⟩
  | gstart =>
    obtain rfl := e.eq_effectState
    exact ⟨nofun, nofun, fun _ => rfl, nofun⟩
  | estart =>
    obtain ⟨-, hfits, rfl⟩ := e
    exact ⟨fun _ _ => ⟨rfl, rfl, rfl, rfl, rfl⟩, nofun, nofun, fun _ => toNat_ofNat_capacity hfits⟩
  | dstart =>
    obtain rfl := e.eq_effectState
    exact ⟨nofun, fun _ _ => ⟨rfl, rfl, rfl, rfl, rfl⟩, nofun, nofun⟩
  | push x =>
    obtain ⟨-, rfl⟩ := e
    simpa [State.PresetOk] using h.preset
  | flush =>
    obtain ⟨-, rfl⟩ := e
    simpa [State.PresetOk] using ⟨hgen, hcap⟩
  | abort =>
    obtain rfl := e
    exact ⟨nofun, nofun, nofun, nofun⟩

/-- No effect writes an entry at or above the new CAP (R63). -/
theorem Effect.read_beyond {k : Nat} (hk : t.cap.toNat ≤ k) : t.obuf.read k = s.obuf.read k := by
  cases i with
  | nop | cfgw | cfgso | cfgto | gstart | estart | dterm | dstart | abort | clrerr =>
    obtain rfl := e.eq_effectState
    rfl
  | push x =>
    obtain ⟨hopen, rfl⟩ := e
    rw [State.pushElement_cap] at hk
    by_cases hfull : s.oidx = s.cap
    · rw [State.pushElement_of_full x hfull]
      rfl
    · exact (h.hasRoom hopen hfull).push_read_beyond x hk
  | flush =>
    obtain ⟨-, rfl⟩ := e
    rw [State.endSession_cap, State.emitPending_cap] at hk
    rw [State.endSession_obuf, State.emitPending]
    split
    case isTrue hroom => exact Memory.read_write_other _ _ (by omega)
    case isFalse => rfl
  | eterm =>
    obtain ⟨-, hmode, -, -, rfl⟩ := e
    have hpos := h.cap_pos_of_enc hmode
    exact Memory.read_write_other _ _ (by rw [State.writeTerminator_cap] at hk; omega)

/-- Every entry that the session wrote has content, for each command (R43, R74). -/
theorem Effect.read_wrote {k : Nat} (hk : t.sessionWrote k = true) : (t.obuf.read k).isSome = true := by
  have hold := h.buffer.2.2 k
  rw [State.sessionWrote_iff] at hk hold
  cases i with
  | nop | cfgw | cfgso | cfgto | dterm | abort | clrerr =>
    obtain rfl := e.eq_effectState
    exact hold hk
  | gstart | estart | dstart =>
    obtain rfl := e.eq_effectState
    simp [effectState] at hk
  | push x =>
    obtain ⟨hopen, rfl⟩ := e
    by_cases hfull : s.oidx = s.cap
    · rw [State.pushElement_of_full x hfull] at hk ⊢
      exact hold hk
    · have hs := h.hasRoom hopen hfull
      rw [State.pushElement_termWritten, State.pushElement_cap] at hk
      obtain hlow | hterm := hk
      · exact hs.push_known x (fun j hj => h.buffer.2.2 j ((s.sessionWrote_iff j).mpr (.inl hj))) hlow
      · exact hs.push_read_isSome x (hold (.inr hterm))
  | flush =>
    obtain ⟨-, rfl⟩ := e
    rw [State.endSession_oidx, State.endSession_termWritten, State.endSession_cap, State.emitPending_termWritten,
      State.emitPending_cap] at hk
    rw [State.endSession_obuf]
    unfold State.emitPending at hk ⊢
    split at hk
    case isTrue hpending =>
      rw [State.emit_oidx, State.oidx_succ hpending.2] at hk
      rw [if_pos hpending, State.emit_obuf]
      by_cases hlast : k = s.oidx.toNat
      · rw [hlast, Memory.read_write_same, Option.isSome_some]
      · exact Memory.read_write_isSome (hold (hk.imp_left fun hlt => by omega)) _ _
    case isFalse hnothing =>
      rw [if_neg hnothing]
      exact hold hk
  | eterm =>
    obtain ⟨-, -, -, -, rfl⟩ := e
    rw [State.writeTerminator_oidx, State.writeTerminator_cap] at hk
    rw [State.writeTerminator_obuf]
    obtain hlt | ⟨-, hlast⟩ := hk
    · exact Memory.read_write_isSome (hold (.inl hlt)) _ _
    · rw [← hlast, Nat.add_sub_cancel, Memory.read_write_same, Option.isSome_some]

theorem Effect.bufferOk : t.BufferOk := by
  obtain ⟨hwf, hbeyond, -⟩ := h.buffer
  have hcap := e.capacityOk h
  have hdepth : t.depth = s.depth := exec_depth (exec_of_effect e)
  refine ⟨e.eq_effectState ▸ effectState_wf hwf i, fun k hk => ?_, fun k hk => e.read_wrote h hk⟩
  rw [e.read_beyond h (hcap.2.1.trans hk)]
  exact hbeyond k (hdepth ▸ hk)

/-- Every effect keeps the invariant. -/
theorem Effect.inv : t.Inv where
  errorRecord := e.errorRecordOk h
  sessionFlags := e.sessionFlagsOk h
  widths := e.widthsOk h
  capacity := e.capacityOk h
  accumulator := e.accumulatorOk h
  preset := e.presetOk h
  buffer := e.bufferOk h

end

/-- Every command keeps the invariant, refused or not. -/
theorem exec_inv {s t : State} {i : Instr} (h : s.Inv) (hexec : exec i s = .next t) : t.Inv := by
  obtain ⟨c, -, rfl, -⟩ | e := exec_cases hexec
  · exact h.raise c
  · exact e.inv h

/-- The invariant does not speak of the host's events. -/
theorem State.Inv.withPort {s : State} (h : s.Inv) (rest : List HostEvent) : State.Inv { s with port := rest } :=
  ⟨h.errorRecord, h.sessionFlags, h.widths, h.capacity, h.accumulator, h.preset, h.buffer⟩

/-- Settles O45, event by event. -/
theorem invariantIsKeptByEveryStep : Obligations.InvariantIsKeptByEveryStep := by
  intro s t h hstep
  obtain ⟨-, rfl⟩ | ⟨event, rest, -, hevent⟩ := step_cases hstep
  · exact h
  · have hrest := h.withPort rest
    obtain ⟨w, i, -, -, hexec⟩ | ⟨w, why, -, -, rfl⟩ | ⟨addr, -, rfl⟩ | ⟨-, rfl⟩ := hevent
    · exact exec_inv hrest hexec
    · exact hrest.raise .illegal
    · exact ⟨h.errorRecord, h.sessionFlags, h.widths, h.capacity, h.accumulator, h.preset, h.buffer⟩
    · exact hrest.hostReset

/-- Settles O41: under the invariant DEPTH is at or above the new CAP too. -/
theorem writesStayBelowTheCapacity : Obligations.WritesStayBelowTheCapacity := by
  intro i s t h hexec k hk
  have hcap := (exec_inv h hexec).capacity.2.1
  have hdepth := exec_depth hexec
  have hcapk : t.cap.toNat ≤ k := hk.elim id fun hd => hcap.trans (hdepth ▸ hd)
  obtain ⟨c, -, rfl, -⟩ | e := exec_cases hexec
  · rfl
  · exact e.read_beyond h hcapk

end Sys2Proof.Machine

/-! The statements about the step, the host's reads and resets, and runs of words (20_memory.md R60 to R69,
70_reset_and_hazards.md R231, R240). -/

namespace Sys2Proof.Machine

/-! ### The step -/

/-- Settles O6: the step performs the word, and the word its command. -/
theorem stepPerformsTheDecodedCommand : Obligations.StepPerformsTheDecodedCommand :=
  fun _ _ _ _ hport hw => (step_command hport).trans (performWord_command hw _)

/-- A step that takes a read from the port changes the port and the reply (R61, R62). -/
theorem step_read {s : State} {a : Word} {rest : List HostEvent} (hport : s.port = .read a :: rest) :
    step s = .next { s with port := rest, reply := some (s.readWord a) } := by
  simp only [step, takeEvent, hport]
  rfl

theorem step_next (s : State) : ∃ t, step s = .next t := by
  cases hport : s.port with
  | nil => exact ⟨s, step_of_no_event hport⟩
  | cons e rest =>
    cases e with
    | command w =>
      rw [step_command hport]
      exact performWord_next w _
    | read a => exact ⟨_, step_read hport⟩
    | reset => exact ⟨_, step_reset hport⟩

/-- Settles O15, event by event. -/
theorem everyEventCompletes : Obligations.EveryEventCompletes := ⟨step_next, fun _ => step_of_no_event⟩

/-- Settles O14: the reset state of the block, of which every entry is unread. -/
theorem resetEventGivesTheResetState : Obligations.ResetEventGivesTheResetState := by
  intro s rest hport
  exact ⟨_, step_reset hport, rfl, Nat.succ_ne_self _, fun i => ⟨rfl, State.entry_of_unread rfl⟩⟩

/-! ### The read map -/

/-- Settles O9: the twelve registers, the entries, and the addresses that name neither. -/
theorem readFollowsTheMapWithoutSideEffect : Obligations.ReadFollowsTheMapWithoutSideEffect := by
  refine ⟨fun s => ?map, fun s a rest hport => ⟨step_read hport, s.readWord_hostSide rest _⟩⟩
  case map =>
    have hregister : ∀ a : Word, a.toNat < 0x10000000 → s.readWord a = s.registerWord a.toNat :=
      fun _ => s.readWord_register
    refine ⟨hregister 0x0 (by decide), hregister 0x1 (by decide), hregister 0x2 (by decide), hregister 0x3 (by decide),
      hregister 0x4 (by decide), hregister 0x5 (by decide), hregister 0x6 (by decide), hregister 0x7 (by decide),
      hregister 0x8 (by decide), hregister 0x9 (by decide), hregister 0xA (by decide), hregister 0xB (by decide),
      fun i hi => ?entry, fun a ha hunmapped => ?unmapped⟩
    case entry =>
      have hdepth := s.depth.isLt
      exact s.readWord_entry (by rw [BitVec.toNat_ofNat]; omega) hi
    case unmapped =>
      obtain hlow | hhigh := hunmapped
      · rw [hregister a hlow, s.registerWord_unmapped ha]
      · exact s.readWord_beyond hhigh

/-- An entry that the session did not write reads as a free value (R74). -/
theorem State.entry_of_not_wrote {s : State} {i : Nat} (h : s.sessionWrote i = false) :
    s.entry i = Config.staleEntry s.staleDraw i := by
  rw [State.entry, h]

/-- Settles O10, by whether the session wrote the entry. -/
theorem readsOfSessionEntriesGiveTheirContent : Obligations.ReadsOfSessionEntriesGiveTheirContent := fun s i _ =>
  ⟨fun hwrote hread => State.entry_of_read ((s.sessionWrote_iff i).mpr hwrote) hread,
    fun hnot => State.entry_of_not_wrote (Bool.eq_false_iff.mpr fun hwrote => hnot ((s.sessionWrote_iff i).mp hwrote))⟩

/-- The CFG word as the sum of its fields (R31). -/
theorem State.cfgWord_toNat (s : State) :
    s.cfgWord.toNat = s.oewsel.toNat * 2 ^ 16 + s.tw.toNat * 2 ^ 8 + s.sw.toNat := by
  simp only [State.cfgWord, toNat_append_sum]
  simp
  omega

/-- Settles O12: each field of CFG is a quotient and a remainder of the sum of the fields. -/
theorem cfgWordHasItsFields : Obligations.CfgWordHasItsFields := by
  intro s
  have hsw := s.sw.isLt
  have htw := s.tw.isLt
  have hoewsel := s.oewsel.isLt
  simp only [field_eq_iff, State.cfgWord_toNat, BitVec.ofNat_eq_ofNat, BitVec.toNat_ofNat]
  omega

/-! ### Runs -/

/-- A command does not look at the events that wait, and leaves them (R62). -/
theorem exec_withPort {i : Instr} {s t : State} (h : exec i s = .next t) (es : List HostEvent) :
    exec i { s with port := es } = .next { t with port := es } := by
  have hchecks : checks i { s with port := es } = checks i s := checks_withAside s.err s.ecode es s i
  rw [exec_eq_perform] at h ⊢
  cases hc : firstCause (checks i s) with
  | some c =>
    rw [perform_refuse _ s hc] at h
    cases h
    exact perform_refuse _ _ (hchecks ▸ hc)
  | none =>
    rw [perform_effect _ s hc] at h
    cases h
    rw [perform_effect _ _ (hchecks ▸ hc)]
    by_cases hi : i = .clrerr
    · rw [hi]
      rfl
    · have haside : effectState i { s with port := es } = (effectState i s).withAside s.err s.ecode es :=
        effectState_withAside s.err s.ecode es s hi
      obtain ⟨herr, hecode⟩ := effectState_record s hi
      rw [haside, State.withAside, ← herr, ← hecode]

theorem performWord_withPort {w : Word} {s t : State} (h : performWord w s = .next t) (es : List HostEvent) :
    performWord w { s with port := es } = .next { t with port := es } := by
  cases hw : decode w with
  | command i =>
    rw [performWord_command hw] at h ⊢
    exact exec_withPort h es
  | illegal why =>
    rw [performWord_illegal hw] at h ⊢
    cases h
    rfl

/-- A word leaves the events that wait on the port (R62). -/
theorem performWord_port {w : Word} {s t : State} (h : performWord w s = .next t) : t.port = s.port := by
  have hsame : performWord w s = .next { t with port := s.port } := performWord_withPort h s.port
  rw [h, Host.Outcome.next.injEq] at hsame
  rw [hsame]

/-- One more step after n steps. -/
theorem runSteps_succ {n : Nat} {s t u : State} (h : runSteps n s = .next t) (hstep : step t = .next u) :
    runSteps (n + 1) s = .next u := by
  induction n generalizing s with
  | zero =>
    cases h
    simp only [runSteps, hstep]
  | succ n ih =>
    obtain ⟨v, hv⟩ := step_next s
    rw [runSteps, hv] at h ⊢
    exact ih h

/-- As many steps as words perform the words at the head of the port (R240). -/
theorem runSteps_words {ws : List Word} {s : State} {rest : List HostEvent} (hport : s.port = ws.map .command ++ rest) :
    ∃ t, runWords ws { s with port := rest } = .next t ∧ runSteps ws.length s = .next t ∧ t.port = rest := by
  induction ws generalizing s with
  | nil =>
    obtain rfl : s.port = rest := hport
    exact ⟨s, rfl, rfl, rfl⟩
  | cons w ws ih =>
    obtain ⟨u, hu⟩ := performWord_next w { s with port := ws.map .command ++ rest }
    obtain ⟨t, hrun, hsteps, ht⟩ := ih (performWord_port hu)
    have hstep : step s = .next u := (step_command hport).trans hu
    refine ⟨t, ?_, ?_, ht⟩
    · exact (performAll_cons_next (performWord_withPort hu rest) ws).trans hrun
    · rw [List.length_cons, runSteps, hstep]
      exact hsteps

/-- The words of commands are performed as the commands (R240). -/
theorem runWords_encode (is : List Instr) (s : State) : runWords (is.map encode) s = runCommands is s := by
  induction is generalizing s with
  | nil => rfl
  | cons i is ih =>
    obtain ⟨t, ht⟩ := exec_next i s
    have hword : performWord (encode i) s = .next t := (performWord_command (decode_encode i) s).trans ht
    exact (performAll_cons_next hword _).trans ((ih t).trans (performAll_cons_next ht is).symm)

/-- Settles O16: the steps that perform a run, the two kinds of words in it, and runs of commands. -/
theorem runPerformsItsWordsInOrder : Obligations.RunPerformsItsWordsInOrder := by
  refine ⟨fun ws s rest hport => ?steps, fun before after w s t hbefore => ⟨fun hw => ?illegal, fun i u hw hexec => ?command⟩,
    runWords_encode⟩
  case steps =>
    obtain ⟨t, hrun, hsteps, ht⟩ := runSteps_words hport
    exact ⟨t, hrun, hsteps, ht, fun a more hread => runSteps_succ hsteps (step_read (ht.trans hread))⟩
  case illegal =>
    obtain ⟨why, hwhy⟩ := legal_eq_false_iff.mp hw
    have hword : performWord w t = .next (t.refusedWith 1) :=
      (performWord_illegal hwhy t).trans (congrArg _ (t.raise_eq_refusedWith .illegal))
    exact (performAll_append_next hbefore _).trans (performAll_cons_next hword after)
  case command =>
    exact (performAll_append_next hbefore _).trans
      (performAll_cons_next ((performWord_command hw t).trans hexec) after)

end Sys2Proof.Machine

/-! The statements about single commands of the realigner core and about the model's own marks (40_realigner.md R109, R111;
log 4, 5, 6). -/

namespace Sys2Proof.Machine

/-- Settles O20: CFGTO's one check, and its effect for every immediate. -/
theorem cfgtoWritesOutputOffset : Obligations.CfgtoWritesOutputOffset := fun imm _ =>
  ⟨decode_encode (.cfgto imm), fun hopen => exec_refused (c := .busy) (by simp [checks, hopen]),
    fun hidle => exec_of_effect ⟨hidle, rfl⟩⟩

/-- Settles O26: PUSH's one check, and its effect when the buffer is full. -/
theorem pushWhenFullOnlyCounts : Obligations.PushWhenFullOnlyCounts := fun x _ =>
  ⟨decode_encode (.push x), fun hidle => exec_refused (c := .notActive) (by simp [checks, hidle]),
    fun hopen hfull => exec_of_effect ⟨hopen, (State.pushElement_of_full x hfull).symm⟩⟩

/-! ### The model's own marks -/

section
variable {i : Instr} {s t : State}

/-- DSTART opens the outputs when the terminator or the count is none that an encode gives (R152, conditions 1 and 2). -/
theorem headerInImage_eq_false_iff (resid : Elem) (n l : Nat) :
    headerInImage resid n l = false ↔ 6 < resid.toNat ∨ (4 * n + 6) / 7 ≠ l := by
  have hceil : ceilDiv (4 * n) 7 = (4 * n + 6) / 7 := rfl
  simp only [headerInImage, hceil, Bool.and_eq_false_iff, decide_eq_false_iff_not, beq_eq_false_iff_ne, Nat.not_le]

/-- The commands that open a session are the three start commands (R24, R102). -/
theorem Effect.opens (e : Effect i s t) (hidle : s.active = false) (hopen : t.active = true) :
    (∃ cap, i = .gstart cap) ∨ (∃ n, i = .estart n) ∨ ∃ l, i = .dstart l := by
  cases i with
  | gstart cap => exact .inl ⟨cap, rfl⟩
  | estart n => exact .inr (.inl ⟨n, rfl⟩)
  | dstart l => exact .inr (.inr ⟨l, rfl⟩)
  | _ =>
    obtain rfl := e.eq_effectState
    simp [effectState, hidle] at hopen

/-- A start command that is not refused starts its session's marks afresh. -/
theorem exec_opens_marks (h : exec i s = .next t) (hidle : s.active = false) (hopen : t.active = true) :
    t.accAny = false ∧ t.termWritten = false ∧ t.staleDraw = s.staleDraw + 1 ∧ t.draws = s.draws ∧
      (t.outAny = true ↔ ∃ l, i = .dstart l ∧ (6 < s.resid.toNat ∨ (4 * t.cap.toNat + 6) / 7 ≠ l.toNat)) := by
  obtain ⟨c, -, rfl, -⟩ | e := exec_cases h
  · exact absurd (hidle.symm.trans hopen) Bool.false_ne_true
  obtain ⟨cap, rfl⟩ | ⟨n, rfl⟩ | ⟨l, rfl⟩ := e.opens hidle hopen
  · obtain rfl := e.eq_effectState
    exact ⟨rfl, rfl, rfl, rfl, ⟨nofun, nofun⟩⟩
  · obtain rfl := e.eq_effectState
    exact ⟨rfl, rfl, rfl, rfl, ⟨nofun, nofun⟩⟩
  · obtain ⟨-, -, hnonneg, hfits, rfl⟩ := e
    have hcap := toNat_ofNat_capacity (Int.toNat_le.mpr hfits)
    refine ⟨rfl, rfl, rfl, rfl, ?_⟩
    rw [State.startDecode_outAny, State.startDecode_cap, hcap, Bool.not_eq_true', headerInImage_eq_false_iff]
    exact ⟨fun hopens => ⟨l, rfl, hopens⟩, fun ⟨_, hl, hopens⟩ => Instr.dstart.inj hl ▸ hopens⟩

/-- ETERM is refused with E_BUSY or E_SEQ, or writes the terminator (R141). -/
theorem exec_eterm_termWritten (h : exec .eterm s = .next t) (hbusy : t ≠ s.refusedWith 2) (hseq : t ≠ s.refusedWith 6) :
    t.termWritten = true := by
  obtain ⟨c, hc, rfl⟩ | ⟨-, rfl⟩ := perform_cases h
  · have hmem := firstCause_mem hc
    simp only [List.map_cons, List.map_nil, List.mem_cons, List.not_mem_nil, or_false] at hmem
    obtain rfl | rfl := hmem
    · exact absurd (s.raise_eq_refusedWith .busy) hbusy
    · exact absurd (s.raise_eq_refusedWith .seq) hseq
  · rfl

end

/-- Settles O25: the marks of a session just opened, ETERM's, and the frame of every other effect. -/
theorem sessionsStartDetermined : Obligations.SessionsStartDetermined := by
  refine ⟨fun i s t => exec_opens_marks, fun s t => exec_eterm_termWritten, fun i s t h => ?_⟩
  obtain ⟨c, rfl⟩ | rfl := exec_eq_raise_or_effectState h
  · exact ⟨fun hne => absurd hne (by simp), fun hne => absurd rfl hne, fun hne => absurd rfl hne⟩
  · cases i <;> simp [effectState]

end Sys2Proof.Machine

/-! PUSH with room in the buffer (40_realigner.md R103 to R106, R111): what it writes, what it leaves pending, and which of
its outputs the spec leaves open (R152, R156; log 5, 6). -/

namespace Sys2Proof.Machine

/-! ### The units that show a decode session to lie outside the encoder image -/

/-- This PUSH is the first to break condition 3 or 4 of R152, written out for the DEC preset. -/
def State.BreaksImage (x : Elem) (s : State) : Prop :=
  s.mode = .dec ∧ s.outAny = false ∧
    (¬ (0x4E00 ≤ x.toNat ∧ x.toNat ≤ 0x8DFF) ∨
      (s.icnt + 1).toNat = s.nlen.toNat ∧ (x.toNat - 0x4E00) % 2 ^ (14 * s.nlen.toNat - 8 * s.cap.toNat) ≠ 0)

/-- The range of R103 under the DEC preset is that of a data unit (R44, R145). -/
theorem elemInRange_dec_iff (x : Elem) : elemInRange 14 dataBase x = true ↔ 0x4E00 ≤ x.toNat ∧ x.toNat ≤ 0x8DFF := by
  have hbase : dataBase.toNat = 0x4E00 := rfl
  have hwidth : (14 : Width).toNat = 14 := rfl
  rw [elemInRange_iff, hbase, hwidth]
  omega

section
variable {s : State}

/-- Under the DEC preset the model's test for the image is R152's conditions 3 and 4. -/
theorem State.unitOutsideImage_iff (hpreset : s.mode = .dec → s.sw = 14 ∧ s.soff = dataBase) (x : Elem) :
    s.countPush.unitOutsideImage x = true ↔ s.BreaksImage x := by
  unfold State.BreaksImage State.unitOutsideImage
  by_cases hmode : s.mode = .dec
  case neg => simp [hmode]
  obtain ⟨hsw, hsoff⟩ := hpreset hmode
  by_cases hx : elemInRange 14 dataBase x = true
  · have hvalue : inputValue 14 dataBase x = x.toNat - 0x4E00 := inputValue_of_inRange hx
    have hrange := (elemInRange_dec_iff x).mp hx
    simp only [State.countPush_mode, State.countPush_outAny, State.countPush_sw, State.countPush_soff, State.countPush_icnt,
      State.countPush_nlen, State.countPush_cap, hmode, hsw, hsoff, hx, hvalue, padBits]
    simp [hrange]
  · have hrange := mt (elemInRange_dec_iff x).mpr hx
    rw [Bool.not_eq_true] at hx
    simp only [State.countPush_mode, State.countPush_outAny, State.countPush_sw, State.countPush_soff, hmode, hsw, hsoff,
      hx, hrange, not_false_eq_true, true_or, and_true, true_and, beq_self_eq_true, Bool.true_and, Bool.not_false,
      Bool.true_or, Bool.and_true, Bool.not_eq_true']

theorem State.Inv.unitOutsideImage_iff (h : s.Inv) (hopen : s.active = true) (x : Elem) :
    s.countPush.unitOutsideImage x = true ↔ s.BreaksImage x :=
  State.unitOutsideImage_iff (fun hmode =>
    let ⟨hsw, _, _, hsoff, _⟩ := h.preset.2.1 hopen hmode
    ⟨hsw, hsoff⟩) x

/-! ### The marks and the outputs of a PUSH with room -/

variable (hs : s.HasRoom) (x : Elem)
include hs

theorem State.HasRoom.push_outAny : (s.pushElement x).outAny = (s.countPush.unitOutsideImage x || s.outAny) := by
  rw [State.pushElement_of_room x hs.room, State.takeElement_outAny, State.countPush_outAny]

theorem State.HasRoom.push_oidx_eq : (s.pushElement x).oidx.toNat = s.oidx.toNat + s.emits := hs.pushElement_oidx x

/-- Where no output is open, a PUSH draws no free value. -/
theorem State.HasRoom.push_draws (hx : elemInRange s.sw s.soff x = true) (hacc : s.accAny = false)
    (hout : s.outAny = false) (himage : s.countPush.unitOutsideImage x = false) : (s.pushElement x).draws = s.draws := by
  have htake := s.countPush.takeElement_eq x
  simp only [himage, Bool.false_eq_true, if_false, State.countPush_sw, State.countPush_soff, State.countPush_accAny, hx, hacc,
    Bool.not_true] at htake
  rw [State.pushElement_of_room x hs.room, htake]
  exact pushLoop_draws _ _ _ _ s.countPush hout

/-- Every entry that a PUSH writes is a free value when the element is out of range or the session outside the image (R103,
R156). -/
theorem State.HasRoom.push_read_free
    (hany : (!elemInRange s.sw s.soff x || (s.countPush.unitOutsideImage x || s.outAny)) = true) {i : Nat}
    (hlow : s.oidx.toNat ≤ i) (hhigh : i < (s.pushElement x).oidx.toNat) :
    ∃ k, (s.pushElement x).obuf.read i = some (Config.anyOutput k) := by
  obtain ⟨hoidx, -, -, -, hwritten⟩ := hs.push_spec x
  obtain ⟨j, rfl⟩ := Nat.exists_eq_add_of_le hlow
  rw [hwritten j (by omega), if_pos (by rw [Bool.or_assoc, hany, Bool.or_true])]
  exact ⟨_, rfl⟩

/-- The first entry that a PUSH writes is a free value when a bit of an out-of-range element is pending (R103). -/
theorem State.HasRoom.push_first_free (hacc : s.accAny = true) (hemit : s.oidx.toNat < (s.pushElement x).oidx.toNat) :
    ∃ k, (s.pushElement x).obuf.read s.oidx.toNat = some (Config.anyOutput k) := by
  obtain ⟨hoidx, -, -, -, hwritten⟩ := hs.push_spec x
  have hfirst := hwritten 0 (by omega)
  rw [hacc, if_pos (by simp)] at hfirst
  exact ⟨_, hfirst⟩

/-- A PUSH that emits nothing leaves the element's bits pending with those before it. -/
theorem State.HasRoom.push_accAny_of_no_emit (hsame : (s.pushElement x).oidx = s.oidx) :
    (s.pushElement x).accAny = (s.accAny || !elemInRange s.sw s.soff x) := by
  obtain ⟨hoidx, hopen, -, -, -⟩ := hs.push_spec x
  have hroom := hs.room
  have hsw := hs.sw_pos
  rw [hsame] at hoidx
  have hk : (s.accOff.toNat + s.sw.toNat) / s.tw.toNat = 0 := by omega
  have hlt := (Nat.div_eq_zero_iff_lt hs.tw_pos).mp hk
  obtain ⟨-, -, hany⟩ := hopen (by omega)
  rw [hany, hk, Nat.mod_eq_of_lt hlt, decide_eq_true (by omega)]
  simp

/-- The mark of a pending bit after an element in range: it stays while no group completes (log 5). -/
theorem State.HasRoom.push_accAny_inRange (hx : elemInRange s.sw s.soff x = true) :
    (s.pushElement x).accAny = true ↔ s.accAny = true ∧ s.accOff.toNat + s.sw.toNat < s.tw.toNat := by
  obtain ⟨hoidx, hopen, hfull, -, -⟩ := hs.push_spec x
  have hroom := hs.room
  have hsw := hs.sw_pos
  rw [hx] at hopen
  rcases Nat.lt_or_ge ((s.accOff.toNat + s.sw.toNat) / s.tw.toNat) (s.cap.toNat - s.oidx.toNat) with hk | hk
  · obtain ⟨-, -, hany⟩ := hopen hk
    rw [hany]
    by_cases hlt : s.accOff.toNat + s.sw.toNat < s.tw.toNat
    · rw [Nat.mod_eq_of_lt hlt, decide_eq_true (by omega), Nat.div_eq_of_lt hlt]
      simp [hlt]
    · have hpos := Nat.div_pos (Nat.not_lt.mp hlt) hs.tw_pos
      rw [decide_eq_false (Nat.ne_of_gt hpos)]
      simp [hlt]
  · obtain ⟨-, -, hany⟩ := hfull hk
    rw [hany]
    refine ⟨nofun, fun ⟨_, hlt⟩ => ?_⟩
    rw [Nat.div_eq_of_lt hlt] at hk
    omega

/-- The mark after an element out of range: some of its bits are pending, which they are not once the buffer is full (log
5). -/
theorem State.HasRoom.push_accAny_outOfRange (hx : elemInRange s.sw s.soff x = false) :
    (s.pushElement x).accAny = true ↔
      0 < (s.pushElement x).accOff.toNat ∧ (s.pushElement x).oidx.toNat ≠ s.cap.toNat := by
  obtain ⟨hoidx, hopen, hfull, -, -⟩ := hs.push_spec x
  have hroom := hs.room
  rw [hx] at hopen
  rcases Nat.lt_or_ge ((s.accOff.toNat + s.sw.toNat) / s.tw.toNat) (s.cap.toNat - s.oidx.toNat) with hk | hk
  · obtain ⟨hoff, -, hany⟩ := hopen hk
    rw [hany, hoff, hoidx]
    simp [Nat.pos_iff_ne_zero]
    omega
  · obtain ⟨-, -, hany⟩ := hfull hk
    rw [hany, hoidx]
    simp
    omega

end

/-- Settles O27: the element is in range and the image is kept, so no output is open but the first group's. -/
theorem pushEmitsTheGroupsOfItsBits : Obligations.PushEmitsTheGroupsOfItsBits := by
  intro x s h hopen hroom hlow hhigh hout hpad sw tw oew len bits room m
  have hs := h.hasRoom hopen hroom
  have hx : elemInRange s.sw s.soff x = true := (elemInRange_iff _ _ _).mpr ⟨hlow, hhigh⟩
  have himage : s.countPush.unitOutsideImage x = false := by
    refine Bool.eq_false_iff.mpr fun hopens => ?_
    obtain ⟨hmode, -, hbreak⟩ := (h.unitOutsideImage_iff hopen x).mp hopens
    obtain ⟨hsw, -, -, hsoff, -⟩ := h.preset.2.1 hopen hmode
    obtain hrange | ⟨hlast, hbits⟩ := hbreak
    · exact hrange ((elemInRange_dec_iff x).mp (hsw ▸ hsoff ▸ hx))
    · exact hbits (hpad hmode hlast)
  have hframe := State.pushElement_frame x s
  have houtAny : (s.pushElement x).outAny = s.outAny := by rw [hs.push_outAny x, himage, Bool.false_or]
  simp only [houtAny] at hframe
  obtain ⟨hoidx, hpending, hfull, -, hwritten⟩ := hs.push_spec x
  rw [hx, himage, hout] at hwritten
  rw [inputValue_of_inRange hx] at hpending hwritten
  refine ⟨s.pushElement x, exec_of_effect ⟨hopen, rfl⟩, hframe, hs.push_accAny_inRange x hx,
    fun hacc => hs.push_draws x hx hacc hout himage, hoidx, fun hacc hm => ?first, fun j hj hdetermined => ?groups,
    fun i hi => ?kept, fun hlt => ?pending, fun hge => ?full⟩
  case first =>
    have hemit : s.oidx.toNat < (s.pushElement x).oidx.toNat := hoidx ▸ Nat.lt_add_of_pos_right hm
    exact hs.push_first_free x hacc hemit
  case groups =>
    refine (hwritten j hj).trans (congrArg some (if_neg ?_))
    obtain hacc | hpos := hdetermined
    · simp [hacc]
    · simp [Nat.ne_of_gt hpos]
  case kept =>
    rw [hs.push_read_kept x (hoidx ▸ hi), State.keptEntry, himage]
    exact if_neg fun hfalse => Bool.false_ne_true hfalse.1
  case pending => exact ⟨(hpending hlt).1, (hpending hlt).2.1⟩
  case full => exact ⟨(hfull hge).1, (hfull hge).2.1⟩

/-- Settles O28: the registers follow from the element step, and a redraw is what breaking the image does to other entries. -/
theorem pushRegistersFollowTheRuleForEveryElement : Obligations.PushRegistersFollowTheRuleForEveryElement := by
  intro x s h hopen hroom sw tw len v bits room m breaksImage
  have hs := h.hasRoom hopen hroom
  have himage : s.countPush.unitOutsideImage x = true ↔ breaksImage := h.unitOutsideImage_iff hopen x
  obtain ⟨hoidx, hpending, hfull, -, hwritten⟩ := hs.push_spec x
  rw [inputValue_eq_mod s.soff x hs.sw_le] at hpending
  refine ⟨s.pushElement x, exec_of_effect ⟨hopen, rfl⟩, State.pushElement_frame x s, hoidx, ?outAny,
    fun j hj => ⟨_, hwritten j hj⟩, fun hkeeps i hi => ?kept, fun i hi => hs.push_read_beyond x hi,
    fun hlt => ⟨(hpending hlt).1, (hpending hlt).2.1⟩, fun hge => ⟨(hfull hge).1, (hfull hge).2.1⟩⟩
  case outAny => rw [hs.push_outAny x, Bool.or_eq_true, himage, or_comm]
  case kept =>
    rw [hs.push_read_kept x (hoidx ▸ hi)]
    exact if_neg fun hopens => hkeeps (himage.mp hopens.1)

/-! ### The outputs that the spec leaves open -/

/-- FLUSH emits a free value when the pending bits or the session's outputs are open (R103, R112, R156). -/
theorem State.Inv.flush_free {s : State} (h : s.Inv) (hopen : s.active = true) (hroom : s.oidx ≠ s.cap)
    (hany : (s.accAny || s.outAny) = true) (hpending : 0 < s.accOff.toNat) :
    ∃ t k, exec .flush s = .next t ∧ t.obuf.read s.oidx.toNat = some (Config.anyOutput k) := by
  have hne : s.accOff ≠ 0 := fun hzero => by simp [hzero] at hpending
  refine ⟨s.emitPending.endSession, s.draws, exec_of_effect ⟨hopen, rfl⟩, ?_⟩
  rw [State.endSession_obuf, State.emitPending_of_pending hne (h.oidx_lt_cap hroom), hany, State.emit_obuf, if_pos rfl,
    Memory.read_write_same]

/-- Settles O29: outside a decode session the open outputs are those of out-of-range elements. -/
theorem outOfRangeOutputsAreFree : Obligations.OutOfRangeOutputsAreFree := by
  intro x s h hopen hroom _
  have hs := h.hasRoom hopen hroom
  have hpush : exec (.push x) s = .next (s.pushElement x) := exec_of_effect ⟨hopen, rfl⟩
  refine ⟨fun hrange => ⟨s.pushElement x, hpush, ?_, ?_⟩, fun hacc => ⟨⟨s.pushElement x, hpush, ?_, ?_⟩, ?_⟩⟩
  · have hx : elemInRange s.sw s.soff x = false := Bool.eq_false_iff.mpr (mt (elemInRange_iff _ _ _).mp hrange)
    exact fun i hlow hhigh => hs.push_read_free x (by simp [hx]) hlow hhigh
  · have hx : elemInRange s.sw s.soff x = false := Bool.eq_false_iff.mpr (mt (elemInRange_iff _ _ _).mp hrange)
    rw [hs.push_accAny_outOfRange x hx, State.pushElement_cap, Ne, Ne, BitVec.toNat_inj]
  · exact fun hemit => hs.push_first_free x hacc hemit
  · intro hsame
    rw [hs.push_accAny_of_no_emit x hsame, hacc, Bool.true_or]
  · exact fun hpending => h.flush_free hopen hroom (by simp [hacc]) hpending

/-- A PUSH that breaks the image leaves every known entry below CAP at a free value (R156, log 6). -/
theorem State.HasRoom.push_breaks_read {s : State} (hs : s.HasRoom) {x : Elem}
    (hopens : s.countPush.unitOutsideImage x = true) {i : Nat} {v : Elem} (hi : i < s.cap.toNat)
    (hv : (s.pushElement x).obuf.read i = some v) : ∃ k, v = Config.anyOutput k := by
  by_cases hnew : s.oidx.toNat ≤ i ∧ i < (s.pushElement x).oidx.toNat
  · obtain ⟨k, hk⟩ := hs.push_read_free x (by simp [hopens]) hnew.1 hnew.2
    exact ⟨k, Option.some.inj (hv.symm.trans hk)⟩
  · rw [hs.push_read_kept x (by omega), State.keptEntry, if_pos ⟨hopens, hi⟩, Option.map_eq_some_iff] at hv
    obtain ⟨-, -, hdraw⟩ := hv
    exact ⟨_, hdraw.symm⟩

/-- Settles O30: the PUSH that breaks the image redraws, and the mark that it leaves opens what is written after it. -/
theorem decodeOutsideTheImageIsFree : Obligations.DecodeOutsideTheImageIsFree := by
  intro x s h hopen hroom hmode
  have hs := h.hasRoom hopen hroom
  have hpush : exec (.push x) s = .next (s.pushElement x) := exec_of_effect ⟨hopen, rfl⟩
  refine ⟨fun hbreak hout => ⟨s.pushElement x, hpush, ?_, fun i v hi hv => ?_⟩,
    fun hout => ⟨s.pushElement x, hpush, ?_, fun i hlow hhigh => ?_⟩,
    fun hout hpending => h.flush_free hopen hroom (by simp [hout]) hpending⟩
  · rw [hs.push_outAny x, (h.unitOutsideImage_iff hopen x).mpr ⟨hmode, hout, hbreak⟩, Bool.true_or]
  · rw [State.pushElement_cap] at hi
    exact hs.push_breaks_read ((h.unitOutsideImage_iff hopen x).mpr ⟨hmode, hout, hbreak⟩) hi hv
  · rw [hs.push_outAny x, hout, Bool.or_true]
  · exact hs.push_read_free x (by simp [hout]) hlow hhigh

end Sys2Proof.Machine

/-! The laws of a generic and of an encode session from any idle state (40_realigner.md R113, 41_encoder.md R143). -/

namespace Sys2Proof.Machine

/-- A generic session just opened with legal widths (R102, R110). -/
theorem State.sessionInit_opened {s : State} (hlegal : cfgLegal s.sw s.tw s.oewsel = true) (cap : Count) :
    (s.sessionInit .gen cap 0).Opened :=
  ⟨rfl, hlegal, rfl, rfl, rfl, rfl, rfl⟩

/-- GSTART, the PUSHes and FLUSH of a generic session: the bitstream law (R113). -/
theorem generic_feed {s : State} {cap : Count} {xs : List Elem} (hidle : s.active = false)
    (hlegal : cfgLegal s.sw s.tw s.oewsel = true) (hfits : cap.toNat ≤ s.depth.toNat)
    (hxs : ∀ x ∈ xs, s.soff.toNat ≤ x.toNat ∧ x.toNat < s.soff.toNat + 2 ^ s.sw.toNat) :
    ∃ u, runCommands (.gstart cap :: feed xs) s = .next u ∧ (s.sessionInit .gen cap 0).Realigned xs u := by
  have hstart : exec (.gstart cap) s = .next (s.sessionInit .gen cap 0) := exec_of_effect ⟨hidle, hlegal, hfits, rfl⟩
  obtain ⟨u, hrun, hu⟩ := (State.sessionInit_opened hlegal cap).feed_realigned nofun xs
    fun x hx => (elemInRange_iff _ _ _).mpr (hxs x hx)
  exact ⟨u, (performAll_cons_next hstart _).trans hrun, hu⟩

/-- Settles O47: the bitstream law for the session that GSTART opens. -/
theorem genericSessionFollowsTheBitstreamLaw : Obligations.GenericSessionFollowsTheBitstreamLaw := by
  intro s cap xs hidle hlegal hfits hxs out
  obtain ⟨u, hrun, hu⟩ := generic_feed hidle hlegal hfits hxs
  exact ⟨u, hrun, hu.oidx, hu.written, hu.kept, hu.err, hu.ecode, hu.active, hu.done, hu.mode⟩

/-- Settles O49: the data units end one entry below CAP, and no other entry is written. -/
theorem encodeDataStopsBelowTheTerminator : Obligations.EncodeDataStopsBelowTheTerminator := by
  intro s bytes hidle hlen hfits hbytes
  obtain ⟨u, hrun, hu⟩ := encode_feed hidle hlen hfits hbytes
  have hcap : u.cap.toNat = ceilDiv (4 * bytes.length) 7 + 1 := encoded_cap hlen hfits hu
  have hoidx : u.oidx.toNat = u.cap.toNat - 1 := by rw [encoded_oidx hlen hfits hu, hcap, Nat.add_sub_cancel]
  refine ⟨u, hrun, hoidx, by omega, State.full_eq_false.mpr (by omega), encoded_icnt hlen hu, ?_⟩
  exact hu.kept _ (by rw [← hu.oidx, hoidx])

/-! ### The byte count of an encode (R154) -/

/-- The residue of the terminator of n bytes (R141, R150). -/
theorem residueOf_terminatorUnit (n : Nat) : (residueOf (terminatorUnit n)).toNat = n % 7 := by
  rw [residueOf, BitVec.toNat_sub, terminatorUnit_toNat]
  simp [termBase]
  omega

theorem effectiveResidue_eq (resid : Elem) : effectiveResidue resid = if resid.toNat = 0 then 7 else resid.toNat := by
  have hzero : resid = 0 ↔ resid.toNat = 0 := BitVec.toNat_inj.symm
  simp only [effectiveResidue, hzero]

/-- Settles O51: n = 7q + r bytes fill 4q + ceil(4r / 7) units. -/
theorem byteCountOfAnEncodeIsItsLength : Obligations.ByteCountOfAnEncodeIsItsLength := by
  intro n
  rw [decodeCount, effectiveResidue_eq, residueOf_terminatorUnit, ceilDiv]
  split <;> omega

end Sys2Proof.Machine

/-! The encoder image (42_decoder.md R152 to R154): the groups of a stream spell the stream, so `encode` and `decode` are
inverse to each other on the image. -/

namespace Sys2Proof.Machine

/-! ### A stream of n bits -/

/-- The first n bits of a stream, missing ones as 0 (R113). -/
def resize (n : Nat) (stream : List Bool) : List Bool := (List.range n).map fun i => stream[i]?.getD false

@[simp] theorem resize_length (n : Nat) (stream : List Bool) : (resize n stream).length = n := by simp [resize]

theorem resize_getD {n i : Nat} (hi : i < n) (stream : List Bool) :
    (resize n stream)[i]?.getD false = stream[i]?.getD false := by
  simp [resize, hi]

/-- Streams with the same bits, missing ones as 0, have the same first bits. -/
theorem resize_congr {n : Nat} {stream stream' : List Bool}
    (h : ∀ i, i < n → stream[i]?.getD false = stream'[i]?.getD false) : resize n stream = resize n stream' :=
  List.map_congr_left fun i hi => h i (List.mem_range.mp hi)

section
variable {w : Nat} {stream : List Bool}

/-- A group spells TW bits of the stream, missing ones being 0 (R113). -/
theorem streamGroup_eq_resize (k : Nat) : streamGroup w stream k = bitsValue (resize w (stream.drop (k * w))) := by
  have hbits : (stream.drop (k * w)).take w ++ List.replicate (w - ((stream.drop (k * w)).take w).length) false =
      resize w (stream.drop (k * w)) := by
    refine List.ext_getElem ?_ fun i h1 h2 => ?_
    · rw [List.length_append, List.length_replicate, resize_length]
      exact Nat.add_sub_cancel' (List.length_take_le _ _)
    · rw [List.getElem_append]
      split
      case isTrue hi =>
        have hi' : i < (stream.drop (k * w)).length := (List.length_take_le' _ _).trans_lt' hi
        rw [List.getElem_take]
        simp only [resize, List.getElem_map, List.getElem_range, List.getElem?_eq_getElem hi', Option.getD_some]
      case isFalse hi =>
        have hnone : (stream.drop (k * w))[i]? = none := by
          rw [resize_length] at h2
          rw [List.length_take] at hi
          exact List.getElem?_eq_none (by omega)
        simp only [resize, List.getElem_replicate, List.getElem_map, List.getElem_range, hnone, Option.getD_none]
  rw [streamGroup, hbits]

/-- Streams with the same bits in a group, missing ones as 0, have the same group. -/
theorem streamGroup_congr {stream' : List Bool} {k : Nat}
    (h : ∀ i, i < (k + 1) * w → stream[i]?.getD false = stream'[i]?.getD false) :
    streamGroup w stream k = streamGroup w stream' k := by
  rw [streamGroup_eq_resize, streamGroup_eq_resize]
  refine congrArg bitsValue (resize_congr fun i hi => ?_)
  rw [List.getElem?_drop, List.getElem?_drop]
  exact h _ (by rw [Nat.succ_mul]; omega)

/-- The whole groups of a stream's first n bits are groups of the stream. -/
theorem streamGroup_resize {n k : Nat} (h : (k + 1) * w ≤ n) : streamGroup w (resize n stream) k = streamGroup w stream k :=
  streamGroup_congr fun _ hi => resize_getD (hi.trans_le h) stream

/-- The bits that spell a number are its binary digits, the most significant first (R64). -/
theorem testBit_bitsValue {bits : List Bool} {i : Nat} (hi : i < bits.length) :
    (bitsValue bits).testBit (bits.length - 1 - i) = bits[i] := by
  induction bits generalizing i with
  | nil => exact absurd hi (Nat.not_lt_zero _)
  | cons b bits ih =>
    have hcons : bitsValue (b :: bits) = 2 ^ bits.length * b.toNat + bitsValue bits := by
      rw [← List.singleton_append, bitsValue_append, bitsValue_singleton, Nat.mul_comm]
    rw [hcons, Nat.testBit_two_pow_mul_add _ (bitsValue_lt bits), List.length_cons, Nat.add_sub_cancel]
    cases i with
    | zero => cases b <;> simp
    | succ i =>
      have hi' : i < bits.length := Nat.lt_of_succ_lt_succ hi
      have hdigit : bits.length - (i + 1) = bits.length - 1 - i := by omega
      rw [if_pos (by omega), hdigit, ih hi']
      rfl

/-- The bits of a number that w bits spell are those bits (R64). -/
theorem bitsOf_bitsValue (bits : List Bool) : bitsOf bits.length (bitsValue bits) = bits := by
  refine List.ext_getElem (bitsOf_length _ _) fun i _ hi => ?_
  simp only [bitsOf, List.getElem_map, List.getElem_range]
  exact testBit_bitsValue hi

theorem bitsOf_streamGroup (k : Nat) : bitsOf w (streamGroup w stream k) = resize w (stream.drop (k * w)) := by
  have h := bitsOf_bitsValue (resize w (stream.drop (k * w)))
  rwa [resize_length, ← streamGroup_eq_resize] at h

/-- The groups of a stream spell its bits (R64, R113). -/
theorem bitStream_streamGroups (n : Nat) :
    bitStream w ((List.range n).map (streamGroup w stream)) = resize (n * w) stream := by
  induction n with
  | zero => simp [bitStream, resize]
  | succ n ih =>
    rw [bitStream] at ih ⊢
    rw [List.range_succ, List.map_append, List.flatMap_append, ih, List.map_singleton, List.flatMap_singleton,
      bitsOf_streamGroup, Nat.succ_mul]
    simp [resize, List.range_add, Function.comp_def]

/-- The groups of a stream of values are the values (R64, R113). -/
theorem streamGroup_bitStream {values : List Nat} (h : ∀ v ∈ values, v < 2 ^ w) {k : Nat} (hk : k < values.length) :
    streamGroup w (bitStream w values) k = values[k] := by
  induction values generalizing k with
  | nil => exact absurd hk (Nat.not_lt_zero _)
  | cons v values ih =>
    have hv : v < 2 ^ w := h v List.mem_cons_self
    have hcons : bitStream w (v :: values) = bitsOf w v ++ bitStream w values := rfl
    cases k with
    | zero =>
      have hfirst := streamGroup_whole (tw := w) (stream := bitsOf w v) (k := 0) (by simp)
      rw [hcons, streamGroup_append (by simp), hfirst, bitsValue_bitsOf hv]
      simp [Nat.mod_eq_of_lt hv]
    | succ k =>
      have hdrop : (bitStream w (v :: values)).drop (1 * w) = bitStream w values := by
        rw [hcons, Nat.one_mul, List.drop_append_of_le_length (by simp), List.drop_of_length_le (by simp), List.nil_append]
      rw [List.getElem_cons_succ, Nat.add_comm k 1, ← streamGroup_drop 1, hdrop]
      exact ih (fun u hu => h u (List.mem_cons_of_mem _ hu)) _

end

end Sys2Proof.Machine

/-! The image and the two routines of the source (R142, R152, R153). -/

namespace Sys2Proof.Machine

/-! ### The conditions of the image -/

/-- The units and the terminator are in the encoder image with the byte count n, condition by condition (R152). -/
structure Image (units : List Elem) (term : Elem) (n : Nat) : Prop where
  range : 0x3D00 ≤ term.toNat ∧ term.toNat ≤ 0x3D06
  count : unitsCount units term = n
  fits : ceilDiv (4 * n) 7 = units.length
  data : ∀ u ∈ units, 0x4E00 ≤ u.toNat ∧ u.toNat ≤ 0x8DFF
  pad : ∀ u, units.getLast? = some u → (u.toNat - 0x4E00) % 2 ^ padBits n units.length = 0

theorem inImage_iff (units : List Elem) (term : Elem) : inImage units term = true ↔ ∃ n, Image units term n := by
  simp only [inImage, Bool.and_eq_true, decide_eq_true_eq, List.all_eq_true, isDataUnit, Option.all_eq_true]
  constructor
  · rintro ⟨⟨⟨hterm, hnonneg, hfits⟩, hdata⟩, hpad⟩
    exact ⟨_, hterm, (Int.toNat_of_nonneg hnonneg).symm, hfits, hdata, hpad⟩
  · rintro ⟨n, hterm, hcount, hfits, hdata, hpad⟩
    rw [hcount]
    exact ⟨⟨⟨hterm, Int.natCast_nonneg n, hfits⟩, hdata⟩, hpad⟩

section
variable {units : List Elem} {term : Elem} {n : Nat}

theorem residueOf_toNat {t : Elem} (ht : 0x3D00 ≤ t.toNat) : (residueOf t).toNat = t.toNat - 0x3D00 := by
  have hlt := t.isLt
  rw [residueOf, BitVec.toNat_sub]
  simp [termBase]
  omega

/-- The byte count determines the terminator (R141, R151). -/
theorem Image.terminatorUnit_eq (h : Image units term n) : terminatorUnit n = term := by
  obtain ⟨hlow, hhigh⟩ := h.range
  have hcount := h.count
  rw [unitsCount, decodeCount, effectiveResidue_eq, residueOf_toNat hlow] at hcount
  refine BitVec.eq_of_toNat_eq ?_
  rw [terminatorUnit_toNat]
  split at hcount <;> omega

/-! ### The source's `decode` -/

/-- Byte k that the units spell (R153). -/
def decodedByte (units : List Elem) (k : Nat) : Elem := outputValue 0 0 (streamGroup 8 (elemStream 14 dataBase units) k)

/-- A decoded byte is its group: it has 8 bits and no offset (R104). -/
theorem decodedByte_toNat (units : List Elem) (k : Nat) :
    (decodedByte units k).toNat = streamGroup 8 (elemStream 14 dataBase units) k := by
  have hlt : streamGroup 8 (elemStream 14 dataBase units) k < 2 ^ 8 := streamGroup_lt
  rw [decodedByte, outputValue]
  generalize streamGroup 8 (elemStream 14 dataBase units) k = g at hlt ⊢
  simp [oewOf]
  omega

theorem Image.decodeBytes_eq_map (h : Image units term n) :
    decodeBytes units term = (List.range n).map (decodedByte units) := by
  have hfits := h.fits
  have hmin : min (ceilDiv (units.length * 14) 8) n = n := Nat.min_eq_right (by unfold ceilDiv at hfits ⊢; omega)
  rw [decodeBytes, h.count, Int.toNat_natCast]
  exact congrArg (fun m => (List.range m).map (decodedByte units)) hmin

/-- The decoded bytes are bytes (R153). -/
theorem decodedByte_lt (units : List Elem) (k : Nat) : (decodedByte units k).toNat < 0x100 := by
  rw [decodedByte_toNat]
  exact streamGroup_lt

/-! ### Encoding, then decoding -/

theorem dataUnits_length (bytes : List Elem) : (dataUnits bytes).length = ceilDiv (4 * bytes.length) 7 := by
  rw [dataUnits_eq_map, List.length_map, List.length_range]

/-- What an encode produces is in the image (R152). -/
theorem dataUnits_image {bytes : List Elem} (hbytes : ∀ b ∈ bytes, b.toNat < 0x100) :
    Image (dataUnits bytes) (terminatorUnit bytes.length) bytes.length := by
  obtain ⟨-, hdata, -, hpad⟩ := encodedUnitsHaveTheirRanges bytes hbytes
  rw [encodeUnits_eq, List.dropLast_concat] at hdata hpad
  refine ⟨?range, ?count, (dataUnits_length bytes).symm, hdata, fun u hu => ?pad⟩
  case range =>
    rw [terminatorUnit_toNat]
    omega
  case count =>
    rw [unitsCount, dataUnits_length]
    exact byteCountOfAnEncodeIsItsLength bytes.length
  case pad =>
    have hbits : padBits bytes.length (dataUnits bytes).length = (14 - 8 * bytes.length % 14) % 14 := by
      rw [dataUnits_length, padBits, ceilDiv]
      omega
    rw [hbits]
    exact hpad u hu

/-- The units of an encode spell the bits of the bytes, with zeros after them (R113, R142). -/
theorem elemStream_dataUnits (bytes : List Elem) :
    elemStream 14 dataBase (dataUnits bytes) = resize (ceilDiv (4 * bytes.length) 7 * 14) (elemStream 8 0 bytes) := by
  rw [← bitStream_streamGroups, elemStream, elemValues, dataUnits_eq_map, List.map_map]
  refine congrArg (bitStream 14) (List.map_congr_left fun k _ => ?_)
  have hbase : dataBase.toNat = 0x4E00 := rfl
  rw [Function.comp_apply, dataUnit_toNat, hbase, Nat.add_sub_cancel]

/-- The groups of the bytes' stream are the bytes (R113). -/
theorem streamGroup_bytes {bytes : List Elem} (hbytes : ∀ b ∈ bytes, b.toNat < 0x100) {k : Nat} (hk : k < bytes.length) :
    streamGroup 8 (elemStream 8 0 bytes) k = bytes[k].toNat := by
  have hvalues : ∀ v ∈ elemValues 0 bytes, v < 2 ^ 8 := by
    simp only [elemValues, List.mem_map, forall_exists_index, and_imp, forall_apply_eq_imp_iff₂]
    exact hbytes
  have hgroup := streamGroup_bitStream hvalues (k := k) (by rwa [elemValues, List.length_map])
  rw [elemStream]
  refine hgroup.trans ?_
  simp [elemValues]

/-- The source's `decode` of an encode gives the bytes (R153). -/
theorem decodeBytes_dataUnits {bytes : List Elem} (hbytes : ∀ b ∈ bytes, b.toNat < 0x100) :
    decodeBytes (dataUnits bytes) (terminatorUnit bytes.length) = bytes := by
  rw [(dataUnits_image hbytes).decodeBytes_eq_map]
  refine List.ext_getElem (by simp) fun k _ hk => BitVec.eq_of_toNat_eq ?_
  have hfit : (k + 1) * 8 ≤ ceilDiv (4 * bytes.length) 7 * 14 := by
    unfold ceilDiv
    omega
  rw [List.getElem_map, List.getElem_range, decodedByte_toNat, elemStream_dataUnits, streamGroup_resize hfit,
    streamGroup_bytes hbytes hk]

/-! ### Decoding, then encoding -/

/-- The bytes of units in the image spell the first bits of the units (R113, R153). -/
theorem Image.elemStream_decodeBytes (h : Image units term n) :
    elemStream 8 0 (decodeBytes units term) = resize (n * 8) (elemStream 14 dataBase units) := by
  rw [← bitStream_streamGroups, elemStream, elemValues, h.decodeBytes_eq_map, List.map_map]
  refine congrArg (bitStream 8) (List.map_congr_left fun k _ => ?_)
  rw [Function.comp_apply, decodedByte_toNat]
  exact Nat.sub_zero _

/-- The low bits of a value that are known to be 0 are the last bits that it spells. -/
theorem bitsOf_getD_of_mod {width v p i : Nat} (hv : v % 2 ^ p = 0) (hi : width ≤ i + p) :
    (bitsOf width v)[i]?.getD false = false := by
  by_cases hlt : i < width
  · have hbit : (v % 2 ^ p).testBit (width - 1 - i) = v.testBit (width - 1 - i) := by
      rw [Nat.testBit_mod_two_pow, decide_eq_true (by omega), Bool.true_and]
    rw [hv, Nat.zero_testBit] at hbit
    simp [bitsOf, hlt, ← hbit]
  · simp [bitsOf, hlt]

/-- The bits of the units from the last byte on are pad bits, which are 0 (R145, R152). -/
theorem Image.pad_getD (h : Image units term n) {i : Nat} (hi : n * 8 ≤ i) :
    (elemStream 14 dataBase units)[i]?.getD false = false := by
  have hfits := h.fits
  have hpad := h.pad
  induction units using List.reverseRecOn with
  | nil => simp [elemStream, elemValues, bitStream]
  | append_singleton init u =>
    have hlen : (elemStream 14 dataBase init).length = init.length * 14 := elemStream_length _ _ _
    have hbase : dataBase.toNat = 0x4E00 := rfl
    rw [List.length_append, List.length_singleton, ceilDiv] at hfits
    rw [elemStream_snoc, List.getElem?_append_right (by omega), hlen, hbase]
    refine bitsOf_getD_of_mod (hpad u List.getLast?_concat) ?_
    have hwidth : (14 : Width).toNat = 14 := rfl
    rw [hwidth, padBits, List.length_append, List.length_singleton]
    omega

/-- The source's `encode` of the bytes of units in the image gives the units (R152, R153). -/
theorem Image.dataUnits_decodeBytes (h : Image units term n) : dataUnits (decodeBytes units term) = units := by
  have hlen : (decodeBytes units term).length = n := by simp [h.decodeBytes_eq_map]
  rw [dataUnits_eq_map, hlen, h.fits]
  refine List.ext_getElem (by simp) fun k _ hk => BitVec.eq_of_toNat_eq ?_
  have hsame : streamGroup 14 (resize (n * 8) (elemStream 14 dataBase units)) k =
      streamGroup 14 (elemStream 14 dataBase units) k := by
    refine streamGroup_congr fun i _ => ?_
    by_cases hi : i < n * 8
    · exact resize_getD hi _
    · rw [h.pad_getD (Nat.not_lt.mp hi)]
      simp [resize, hi]
  have hvalues : ∀ v ∈ elemValues dataBase units, v < 2 ^ 14 := by
    simp only [elemValues, List.mem_map, forall_exists_index, and_imp, forall_apply_eq_imp_iff₂]
    intro u hu
    have hbase : dataBase.toNat = 0x4E00 := rfl
    have hrange := h.data u hu
    omega
  have hgroup : streamGroup 14 (elemStream 14 dataBase units) k = units[k].toNat - 0x4E00 := by
    refine (streamGroup_bitStream hvalues (by rwa [elemValues, List.length_map])).trans ?_
    simp [elemValues, dataBase]
  have hrange := h.data _ (List.getElem_mem hk)
  rw [List.getElem_map, List.getElem_range, dataUnit_toNat, h.elemStream_decodeBytes, hsame, hgroup]
  omega

end

/-- Settles O58: the encoder's units are in the image, and the two routines undo each other on it. -/
theorem imageIsWhatTheEncoderProduces : Obligations.ImageIsWhatTheEncoderProduces := by
  refine ⟨fun bytes units term hbytes hunits => ?_, fun units term himage => ?_⟩
  · rw [encodeUnits_eq] at hunits
    have hinit := congrArg List.dropLast hunits
    have hlast := congrArg List.getLast? hunits
    rw [List.dropLast_concat, List.dropLast_concat] at hinit
    rw [List.getLast?_concat, List.getLast?_concat, Option.some.injEq] at hlast
    obtain rfl := hinit
    obtain rfl := hlast
    exact ⟨(inImage_iff _ _).mpr ⟨_, dataUnits_image hbytes⟩, decodeBytes_dataUnits hbytes⟩
  · obtain ⟨n, h⟩ := (inImage_iff units term).mp himage
    have hlen : (decodeBytes units term).length = n := by simp [h.decodeBytes_eq_map]
    refine ⟨fun b hb => ?_, ?_⟩
    · rw [h.decodeBytes_eq_map] at hb
      obtain ⟨k, -, rfl⟩ := List.mem_map.mp hb
      exact decodedByte_lt units k
    · rw [encodeUnits_eq, h.dataUnits_decodeBytes, hlen, h.terminatorUnit_eq]

end Sys2Proof.Machine

/-! Whole decode sessions in the encoder image (42_decoder.md R153, R155), the round trip, and the results of the three
kinds of sessions (70_reset_and_hazards.md R242). -/

namespace Sys2Proof.Machine

/-! ### The start of a decode session -/

/-- The decode session that DTERM and DSTART open in the state `s` (R150, R151). -/
def decodeSession (s : State) (units : List Elem) (term : Elem) : State :=
  effectState (.dstart (BitVec.ofNat 28 units.length)) (effectState (.dterm term) s)

section
variable {s : State} {units : List Elem} {term : Elem} {n : Nat}

section
variable (hlen : units.length < 2 ^ 28) (hcount : unitsCount units term = n)
include hlen

theorem toNat_ofNat_length : (BitVec.ofNat 28 units.length).toNat = units.length := Nat.mod_eq_of_lt hlen

theorem decodeSession_nlen : (decodeSession s units term).nlen.toNat = units.length := toNat_ofNat_length hlen

include hcount

theorem decodeCount_units : decodeCount (residueOf term) (BitVec.ofNat 28 units.length).toNat = n := by
  rw [toNat_ofNat_length hlen]
  exact hcount

theorem decodeSession_outAny : (decodeSession s units term).outAny = !headerInImage (residueOf term) n units.length := by
  have hout : (decodeSession s units term).outAny = !headerInImage (residueOf term)
      (decodeCount (residueOf term) (BitVec.ofNat 28 units.length).toNat).toNat (BitVec.ofNat 28 units.length).toNat := rfl
  rw [hout, decodeCount_units hlen hcount, toNat_ofNat_length hlen, Int.toNat_natCast]

variable (hfits : n ≤ s.depth.toNat)
include hfits

theorem decodeSession_cap : (decodeSession s units term).cap.toNat = n := by
  have hcap : (decodeSession s units term).cap =
      BitVec.ofNat 28 (decodeCount (residueOf term) (BitVec.ofNat 28 units.length).toNat).toNat := rfl
  rw [hcap, decodeCount_units hlen hcount, Int.toNat_natCast, toNat_ofNat_capacity hfits]

/-- DTERM and DSTART of units whose byte count fits open the session (R150, R151). -/
theorem decode_start (hidle : s.active = false) (rest : List Instr) :
    runCommands (.dterm term :: .dstart (BitVec.ofNat 28 units.length) :: rest) s =
      runCommands rest (decodeSession s units term) := by
  have hdecode := decodeCount_units hlen hcount
  have hstart : exec (.dstart (BitVec.ofNat 28 units.length)) (effectState (.dterm term) s) =
      .next (decodeSession s units term) :=
    exec_of_effect ⟨hidle, rfl, hdecode ▸ Int.natCast_nonneg n, hdecode ▸ Int.ofNat_le.mpr hfits, rfl⟩
  exact (performAll_cons_next (exec_dterm_idle hidle term) _).trans (performAll_cons_next hstart rest)

end

/-! ### The units of a decode session in the image -/

section
variable (hlen : units.length < 2 ^ 28) (himage : Image units term n) (hfits : n ≤ s.depth.toNat)
include hlen himage

/-- The terminator and the count of units in the image leave the outputs determined (R152, conditions 1 and 2). -/
theorem decodeSession_opened : (decodeSession s units term).Opened := by
  refine ⟨rfl, (by decide : cfgLegal 14 8 0 = true), rfl, rfl, rfl, rfl, ?_⟩
  obtain ⟨hlow, hhigh⟩ := himage.range
  rw [decodeSession_outAny hlen himage.count, headerInImage, himage.fits, residueOf_toNat hlow, decide_eq_true (by omega)]
  simp

include hfits

/-- No unit of a list in the image shows the session to lie outside it (R152, conditions 3 and 4). -/
theorem decodeSession_keeps_image {xs : List Elem} {x : Elem} (hxs : xs ++ [x] <+: units)
    {t : State} (ht : (decodeSession s units term).Fed xs t) : t.countPush.unitOutsideImage x = false := by
  refine Bool.eq_false_iff.mpr fun hopens => ?_
  obtain ⟨-, -, hbreak⟩ := (State.unitOutsideImage_iff (fun _ => ⟨ht.sw, ht.soff⟩) x).mp hopens
  have hcap : t.cap.toNat = n := by rw [ht.cap, decodeSession_cap hlen himage.count hfits]
  have hnlen : t.nlen.toNat = units.length := by
    rw [ht.frame]
    exact decodeSession_nlen (s := s) (term := term) hlen
  obtain hrange | ⟨hlast, hbits⟩ := hbreak
  · exact hrange (himage.data x (hxs.subset (by simp)))
  · have hle := hxs.length_le
    rw [List.length_append, List.length_singleton] at hle
    have hicnt : (t.icnt + 1).toNat = xs.length + 1 := by
      have hzero : (decodeSession s units term).icnt = 0#32 := rfl
      rw [ht.icnt, hzero, BitVec.zero_add, BitVec.toNat_add, BitVec.toNat_ofNat]
      simp
      omega
    have hall : xs ++ [x] = units := hxs.eq_of_length (by
      rw [List.length_append, List.length_singleton, ← hicnt, hlast, hnlen])
    rw [hnlen, hcap] at hbits
    exact hbits (himage.pad x (hall ▸ List.getLast?_concat))

/-- The PUSHes of the first units of a list in the image (R153). -/
theorem decode_pushes {xs : List Elem} (hxs : xs <+: units) :
    ∃ t, runCommands (xs.map .push) (decodeSession s units term) = .next t ∧ (decodeSession s units term).Fed xs t := by
  have hs := decodeSession_opened (s := s) hlen himage
  induction xs using List.reverseRecOn with
  | nil => exact ⟨_, rfl, hs.fed_nil⟩
  | append_singleton xs x ih =>
    obtain ⟨t, hrun, ht⟩ := ih ((List.prefix_append xs [x]).trans hxs)
    have hx : elemInRange 14 dataBase x = true := (elemInRange_dec_iff x).mpr (himage.data x (hxs.subset (by simp)))
    have hpush : exec (.push x) t = .next (t.pushElement x) := exec_of_effect ⟨ht.active.trans hs.active, rfl⟩
    refine ⟨t.pushElement x, ?_, ht.push hs hx (decodeSession_keeps_image hlen himage hfits hxs ht)⟩
    rw [List.map_append, runCommands, performAll_append_next hrun]
    exact performAll_cons_next hpush []

/-- How many entries the first k units fill (R106, R155). -/
theorem decodeSession_filled (xs : List Elem) :
    (decodeSession s units term).filled xs = min (xs.length * 14 / 8) n := by
  have hstream : ((decodeSession s units term).streamOf xs).length = xs.length * 14 := elemStream_length _ _ _
  have htw : (decodeSession s units term).tw.toNat = 8 := rfl
  rw [State.filled, State.wholeGroups, hstream, htw, decodeSession_cap hlen himage.count hfits]

/-- The whole run of a DECODE in the image: the bitstream law for its units (R113, R153). -/
theorem decode_run (hidle : s.active = false) :
    ∃ u, runCommands (decodeCommands units term) s = .next u ∧ (decodeSession s units term).Realigned units u := by
  have hs := decodeSession_opened (s := s) hlen himage
  obtain ⟨t, hrun, ht⟩ := decode_pushes hlen himage hfits (List.prefix_refl units)
  have hflush : exec .flush t = .next t.emitPending.endSession := exec_of_effect ⟨ht.active.trans hs.active, rfl⟩
  refine ⟨t.emitPending.endSession, ?_, ht.flush hs⟩
  rw [decodeCommands, decode_start hlen himage.count hfits hidle, feed, runCommands, performAll_append_next hrun]
  exact performAll_cons_next hflush []

theorem decodeSession_realigned : (decodeSession s units term).realigned units = decodeBytes units term := by
  rw [State.realigned, decodeSession_cap hlen himage.count hfits, decodeBytes, himage.count, Int.toNat_natCast]
  rfl

end

theorem Image.decodeBytes_length (h : Image units term n) : (decodeBytes units term).length = n := by
  simp [h.decodeBytes_eq_map]

end

/-- The entries below OIDX at the end of a session read as the source's `realign` (R61, R113). -/
theorem State.Realigned.entries {s u : State} {xs : List Elem} (h : s.Realigned xs u) :
    u.entries u.oidx.toNat = s.realigned xs := by
  refine List.ext_getElem (by simp [State.entries, h.oidx]) fun k _ hk => ?_
  simp only [State.entries, List.getElem_map, List.getElem_range]
  refine State.entry_of_read ((u.sessionWrote_iff k).mpr (.inl (h.oidx ▸ hk))) ?_
  rw [h.written k hk, List.getElem?_eq_getElem hk]

/-- Settles O52: the bitstream law for the units gives as many bytes as CAP. -/
theorem decodeGivesTheSourcesBytes : Obligations.DecodeGivesTheSourcesBytes := by
  intro s units term hidle hlen hin hdepth
  obtain ⟨n, himage⟩ := (inImage_iff units term).mp hin
  rw [himage.count, Int.ofNat_le] at hdepth
  obtain ⟨u, hrun, hu⟩ := decode_run hlen himage hdepth hidle
  have hcap : u.cap.toNat = n := hu.cap ▸ decodeSession_cap hlen himage.count hdepth
  have hrealigned := decodeSession_realigned hlen himage hdepth
  have hoidx : u.oidx.toNat = n := by rw [hu.oidx, hrealigned, himage.decodeBytes_length]
  refine ⟨u, hrun, hu.err, hu.ecode, by rw [hcap, himage.count], BitVec.eq_of_toNat_eq (hoidx.trans hcap.symm), ?_,
    hu.active, hu.done, hu.mode⟩
  rw [hcap, ← hoidx, hu.entries, hrealigned]

/-- Settles O55: k units have floor(14k / 8) whole bytes, which reach N at the last unit and not before. -/
theorem decodeFillsItsBufferAtTheLastUnit : Obligations.DecodeFillsItsBufferAtTheLastUnit := by
  intro s units term hidle hlen hin hdepth start
  obtain ⟨n, himage⟩ := (inImage_iff units term).mp hin
  rw [himage.count, Int.ofNat_le] at hdepth
  have hcount := himage.fits
  rw [ceilDiv] at hcount
  refine ⟨fun k hk => ?_, ?_⟩
  · obtain ⟨t, hrun, ht⟩ := decode_pushes hlen himage hdepth (List.take_prefix k units)
    refine ⟨t, (decode_start hlen himage.count hdepth hidle _).trans hrun, ?_⟩
    rw [ht.oidx, ht.cap, decodeSession_filled hlen himage hdepth, decodeSession_cap hlen himage.count hdepth,
      List.length_take, Nat.min_eq_left hk.le]
    omega
  · obtain ⟨t, hrun, ht⟩ := decode_pushes hlen himage hdepth (List.prefix_refl units)
    have hcap : t.cap.toNat = n := ht.cap ▸ decodeSession_cap hlen himage.count hdepth
    have hfilled : (decodeSession s units term).filled units = n := by
      rw [decodeSession_filled hlen himage hdepth]
      omega
    have hfull : t.oidx.toNat = t.cap.toNat := by rw [ht.oidx, hfilled, hcap]
    refine ⟨t, (decode_start hlen himage.count hdepth hidle _).trans hrun, BitVec.eq_of_toNat_eq hfull, fun k hk => ?_,
      fun hnil => ?_, ?_⟩
    · exact ht.kept k (by rw [hfilled, ← hcap]; exact hk)
    · rw [hnil, List.length_nil] at hcount
      exact BitVec.eq_of_toNat_eq (hcap.trans (by simp; omega))
    · rw [exec_of_effect (i := .flush) ⟨ht.active, rfl⟩, State.emitPending_of_nothing (.inr hfull.ge)]
      rfl

/-! ### The round trip -/

/-- The whole run of an ENCODE: ETERM's checks pass after the FLUSH (R141, R142). -/
theorem encode_run {s : State} {bytes : List Elem} (hidle : s.active = false) (hlen : bytes.length < 2 ^ 28)
    (hfits : encodeCapacity bytes.length ≤ s.depth.toNat) (hbytes : ∀ b ∈ bytes, b.toNat < 0x100) :
    ∃ u, runCommands (encodeCommands bytes) s = .next u.writeTerminator ∧
      (encodeSession s bytes.length).Realigned bytes u := by
  obtain ⟨u, hrun, hu⟩ := encode_feed hidle hlen hfits hbytes
  have hicnt : u.icnt.toNat = u.nlen.toNat := (encoded_icnt hlen hu).trans (encoded_nlen hlen hu).symm
  have heterm : exec .eterm u = .next u.writeTerminator := exec_of_effect ⟨hu.active, hu.mode, hu.done, hicnt, rfl⟩
  exact ⟨u, (performAll_append_next hrun [.eterm]).trans (performAll_cons_next heterm []), hu⟩

theorem State.entries_succ (s : State) (m : Nat) : s.entries (m + 1) = s.entries m ++ [s.entry m] := by
  rw [State.entries, List.range_succ, List.map_append, List.map_singleton]
  rfl

/-- Settles O53: what the host reads back is in the image, and the decode of it is the bytes. -/
theorem decodeOfEncodeGivesTheBytes : Obligations.DecodeOfEncodeGivesTheBytes := by
  intro s bytes hidle hlen hfits hdepth hbytes
  obtain ⟨v, hrun, hv⟩ := encode_run hidle hlen hfits hbytes
  have hcap : v.writeTerminator.cap.toNat - 1 = ceilDiv (4 * bytes.length) 7 := by
    rw [State.writeTerminator_cap, encoded_cap hlen hfits hv, encodeCapacity, Nat.add_sub_cancel]
  have hread := encoded_entries hlen hfits hv
  rw [encodeCapacity, State.entries_succ, encodeUnits_eq] at hread
  have hunits := congrArg List.dropLast hread
  have hterm := congrArg List.getLast? hread
  rw [List.dropLast_concat, List.dropLast_concat] at hunits
  rw [List.getLast?_concat, List.getLast?_concat, Option.some.injEq] at hterm
  have himage := dataUnits_image hbytes
  have hshort : (dataUnits bytes).length < 2 ^ 28 := by
    rw [dataUnits_length, ceilDiv]
    omega
  have hdepth' : bytes.length ≤ v.writeTerminator.depth.toNat := by
    rw [State.writeTerminator_depth, hv.frame]
    exact hdepth
  obtain ⟨u, hdecode, hu⟩ := decode_run hshort himage hdepth' hv.active
  have hoidx : u.oidx.toNat = bytes.length := by
    rw [hu.oidx, decodeSession_realigned hshort himage hdepth', himage.decodeBytes_length]
  refine ⟨v.writeTerminator, u, hrun, ?_, hu.err.trans hv.err, ?_⟩
  · rw [hcap, hunits, hterm]
    exact hdecode
  · rw [← hoidx, hu.entries, decodeSession_realigned hshort himage hdepth', decodeBytes_dataUnits hbytes]

/-! ### Results -/

theorem lowByte_of_lt {e : Elem} (h : e.toNat < 0x100) : lowByte e = e := by
  refine BitVec.eq_of_toNat_eq ?_
  rw [lowByte, BitVec.toNat_and]
  exact (Nat.and_two_pow_sub_one_eq_mod e.toNat 8).trans (Nat.mod_eq_of_lt h)

/-- The decoded bytes are their low bytes (R153, R242). -/
theorem Image.map_lowByte {units : List Elem} {term : Elem} {n : Nat} (h : Image units term n) :
    (decodeBytes units term).map lowByte = decodeBytes units term := by
  rw [h.decodeBytes_eq_map, List.map_map]
  exact List.map_congr_left fun k _ => lowByte_of_lt (decodedByte_lt units k)

/-- Settles O56, one kind of session after the other. -/
theorem sessionResultsAreTheSources : Obligations.SessionResultsAreTheSources := by
  rintro s ⟨hidle, herr⟩
  refine ⟨fun cap xs hlegal hfits hxs => ?gen, fun bytes hlen hfits hbytes => ?enc, fun units term hlen hin hdepth => ?dec⟩
  case gen =>
    obtain ⟨u, hrun, hu⟩ := generic_feed hidle hlegal hfits hxs
    refine ⟨u, hrun, ?_⟩
    have hresult : u.hasResult = true := by simp [State.hasResult, hu.err, herr, hu.active, hu.done]
    have hmode : u.mode = .gen := hu.mode
    rw [State.result, if_pos hresult, hmode, hu.entries]
    rfl
  case enc =>
    obtain ⟨u, hrun, hu⟩ := encode_run hidle hlen hfits hbytes
    refine ⟨u.writeTerminator, hrun, ?_⟩
    have herr' : u.err = false := hu.err.trans herr
    have hresult : u.writeTerminator.hasResult = true := by simp [State.hasResult, herr', hu.active, hu.done]
    have hmode : u.writeTerminator.mode = .enc := hu.mode
    have hcap : u.writeTerminator.cap.toNat = encodeCapacity bytes.length := by
      rw [State.writeTerminator_cap, encoded_cap hlen hfits hu]
    rw [State.result, if_pos hresult, hmode, hcap, encoded_entries hlen hfits hu]
    rfl
  case dec =>
    obtain ⟨n, himage⟩ := (inImage_iff units term).mp hin
    obtain ⟨u, hrun, herr', -, hcap, -, hentries, hactive, hdone, hmode⟩ :=
      decodeGivesTheSourcesBytes s units term hidle hlen hin hdepth
    refine ⟨u, hrun, ?_⟩
    have hresult : u.hasResult = true := by simp [State.hasResult, herr', herr, hactive, hdone]
    rw [State.result, if_pos hresult, hmode, hentries, himage.map_lowByte]

end Sys2Proof.Machine

/-! Whole decode sessions outside the encoder image (42_decoder.md R152, R156; log 6): a unit that breaks the image meets a
buffer with room, and from then on every entry of the session is a free value. -/

namespace Sys2Proof.Machine

/-! ### A decode session fed units of any range -/

/-- A decode session just opened, its outputs determined or not (R151). -/
structure State.DecodeOpened (s : State) : Prop where
  active : s.active = true
  mode : s.mode = .dec
  sw : s.sw = 14
  tw : s.tw = 8
  soff : s.soff = dataBase
  oidx : s.oidx = 0
  accOff : s.accOff = 0
  accRest : s.accRest = 0
  icnt : s.icnt = 0

/-- The last of NLEN units carries pad bits that are 0 (R152, condition 4). -/
def State.PadOk (s : State) (xs : List Elem) : Prop :=
  xs.length = s.nlen.toNat → ∀ u, xs.getLast? = some u →
    (u.toNat - 0x4E00) % 2 ^ (14 * s.nlen.toNat - 8 * s.cap.toNat) = 0

/-- The state `t` of the decode session opened as `s` after the units `xs`, of any range. Where the outputs are open every
entry it wrote is a free value, and where they are not, the units keep conditions 3 and 4 of R152 as far as the buffer had
room for them. -/
structure State.DecodeFed (s : State) (xs : List Elem) (t : State) : Prop where
  frame : t = { s with
    icnt := BitVec.ofNat 32 xs.length, oidx := t.oidx, obuf := t.obuf, accOff := t.accOff, accRest := t.accRest,
    accAny := t.accAny, outAny := t.outAny, draws := t.draws }
  oidx : t.oidx.toNat = min (xs.length * 14 / 8) s.cap.toNat
  hasRoom : t.oidx ≠ t.cap → t.HasRoom ∧ t.accOff.toNat = xs.length * 14 % 8
  known : ∀ i, i < t.oidx.toNat → (t.obuf.read i).isSome = true
  free : t.outAny = true → ∀ i, i < t.oidx.toNat → ∃ k, t.obuf.read i = some (Config.anyOutput k)
  opened : t.outAny = false → s.outAny = false
  image : t.outAny = false → (∀ m, m < xs.length → m * 14 / 8 < s.cap.toNat) →
    (∀ u ∈ xs, 0x4E00 ≤ u.toNat ∧ u.toNat ≤ 0x8DFF) ∧ s.PadOk xs

section
variable {s t : State} {xs : List Elem} {x : Elem}

theorem State.DecodeOpened.fed_nil (h : s.DecodeOpened) : s.DecodeFed [] s where
  frame := by
    have hzero : BitVec.ofNat 32 ([] : List Elem).length = s.icnt := h.icnt.symm
    rw [hzero]
  oidx := by simp [h.oidx]
  hasRoom := by
    intro hne
    have hroom : s.cap.toNat ≠ 0 := fun hzero =>
      hne (BitVec.eq_of_toNat_eq (by rw [h.oidx, hzero]; rfl))
    refine ⟨⟨?_, ?_, ?_, ?_, ?_, ?_, ?_, ?_⟩, ?_⟩ <;> simp [h.sw, h.tw, h.accOff, h.accRest, h.oidx]
    omega
  known := by simp [h.oidx]
  free := by simp [h.oidx]
  opened := id
  image := fun _ _ => ⟨nofun, fun _ => nofun⟩

section
variable (h : s.DecodeFed xs t)
include h

theorem State.DecodeFed.active : t.active = s.active := by rw [h.frame]
theorem State.DecodeFed.mode : t.mode = s.mode := by rw [h.frame]
theorem State.DecodeFed.sw : t.sw = s.sw := by rw [h.frame]
theorem State.DecodeFed.tw : t.tw = s.tw := by rw [h.frame]
theorem State.DecodeFed.soff : t.soff = s.soff := by rw [h.frame]
theorem State.DecodeFed.cap : t.cap = s.cap := by rw [h.frame]
theorem State.DecodeFed.nlen : t.nlen = s.nlen := by rw [h.frame]
theorem State.DecodeFed.icnt : t.icnt = BitVec.ofNat 32 xs.length := by rw [h.frame]

end

/-- Counting one more unit leaves the frame (R41, R111). -/
theorem State.DecodeFed.push_frame (h : s.DecodeFed xs t) (x : Elem) :
    let u := t.pushElement x
    u = { s with
      icnt := BitVec.ofNat 32 (xs ++ [x]).length, oidx := u.oidx, obuf := u.obuf, accOff := u.accOff,
      accRest := u.accRest, accAny := u.accAny, outAny := u.outAny, draws := u.draws } := by
  intro u
  have hicnt : t.icnt + 1 = BitVec.ofNat 32 (xs ++ [x]).length := by
    rw [h.icnt, List.length_append, List.length_singleton, BitVec.ofNat_add]
    rfl
  refine (State.pushElement_frame x t).trans ?_
  rw [hicnt]
  exact congrArg (fun v : State => { v with
    icnt := BitVec.ofNat 32 (xs ++ [x]).length, oidx := u.oidx, obuf := u.obuf, accOff := u.accOff, accRest := u.accRest,
    accAny := u.accAny, outAny := u.outAny, draws := u.draws }) h.frame

/-- A full buffer discards the unit (R106). -/
theorem State.DecodeFed.push_full (h : s.DecodeFed xs t) (hfull : t.oidx = t.cap) :
    s.DecodeFed (xs ++ [x]) (t.pushElement x) := by
  have hpush := State.pushElement_of_full x hfull
  have hoidx := h.oidx
  have hcap : t.oidx.toNat = s.cap.toNat := by rw [hfull, h.cap]
  have hframe := h.push_frame x
  rw [hpush] at hframe ⊢
  refine ⟨hframe, ?_, fun hne => absurd hfull hne, h.known, h.free, h.opened, fun _ hroom => ?_⟩
  · rw [State.countPush_oidx, List.length_append, List.length_singleton]
    omega
  · have hlast := hroom xs.length (by simp)
    omega

/-- A session with room still meets the premises of the element step after an element that leaves room (R37, R39). -/
theorem State.HasRoom.push_hasRoom (hs : t.HasRoom) (hopen : t.active = true)
    (hne : (t.pushElement x).oidx ≠ (t.pushElement x).cap) : (t.pushElement x).HasRoom := by
  have hne' : (t.pushElement x).oidx.toNat ≠ (t.pushElement x).cap.toNat := fun heq => hne (BitVec.eq_of_toNat_eq heq)
  have hroom := hs.room
  have hoidx := hs.push_oidx_eq x
  have hemits := t.emits_le_room
  obtain ⟨hoff, hrest, hlow⟩ :=
    (hs.push_accumulatorOk x ((State.pushElement_active x t).trans hopen)).1 (State.full_eq_false.mpr hne')
  rw [State.pushElement_cap] at hne'
  exact ⟨by simpa using hs.sw_pos, by simpa using hs.sw_le, by simpa using hs.tw_pos, by simpa using hs.tw_le, hoff, hrest,
    hlow, by rw [State.pushElement_cap]; omega⟩

/-- A unit that meets room is taken, whatever its range (R103, R111). -/
theorem State.DecodeFed.push_room (h : s.DecodeFed xs t) (hs : s.DecodeOpened) (hlen : xs.length + 1 < 2 ^ 32)
    (hroom : t.oidx ≠ t.cap) : s.DecodeFed (xs ++ [x]) (t.pushElement x) := by
  obtain ⟨ht, hoff⟩ := h.hasRoom hroom
  have hlt := ht.room
  have hoidx := h.oidx
  have hsw : t.sw.toNat = 14 := by rw [h.sw, hs.sw]; rfl
  have htw : t.tw.toNat = 8 := by rw [h.tw, hs.tw]; rfl
  have hemits : (t.pushElement x).oidx.toNat =
      t.oidx.toNat + min ((xs.length * 14 % 8 + 14) / 8) (t.cap.toNat - t.oidx.toNat) := by
    rw [ht.pushElement_oidx x, hoff, hsw, htw]
  have himage := State.unitOutsideImage_iff (fun _ => ⟨h.sw.trans hs.sw, h.soff.trans hs.soff⟩) x
  rw [h.cap] at hlt hemits
  have hout := ht.push_outAny x
  refine ⟨h.push_frame x, ?oidx, fun hne => ⟨ht.push_hasRoom (h.active.trans hs.active) hne, ?accOff⟩, fun i hi => ?known,
    fun hany i hi => ?free, fun hnot => ?opened, fun hnot hbefore => ?image⟩
  case oidx =>
    rw [hemits, List.length_append, List.length_singleton]
    omega
  case accOff =>
    have hne' : (t.pushElement x).oidx.toNat ≠ s.cap.toNat := fun heq =>
      hne (BitVec.eq_of_toNat_eq (by rw [heq, State.pushElement_cap, h.cap]))
    obtain ⟨-, hopen, -, -, -⟩ := ht.push_spec x
    rw [hoff, hsw, htw, h.cap] at hopen
    rw [(hopen (by omega)).1, List.length_append, List.length_singleton]
    omega
  case known => exact ht.push_known x h.known hi
  case free =>
    rw [hout] at hany
    by_cases hopens : t.countPush.unitOutsideImage x = true
    · obtain ⟨v, hv⟩ := Option.isSome_iff_exists.mp (ht.push_known x h.known hi)
      obtain ⟨k, rfl⟩ := ht.push_breaks_read hopens (by rw [h.cap]; omega) hv
      exact ⟨k, hv⟩
    · rw [Bool.not_eq_true] at hopens
      rw [hopens, Bool.false_or] at hany
      by_cases hold : i < t.oidx.toNat
      · rw [ht.push_read_kept x (.inl hold), State.keptEntry, if_neg (by simp [hopens])]
        exact h.free hany i hold
      · exact ht.push_read_free x (by simp [hany]) (Nat.not_lt.mp hold) hi
  case opened =>
    rw [hout, Bool.or_eq_false_iff] at hnot
    exact h.opened hnot.2
  case image =>
    rw [hout, Bool.or_eq_false_iff] at hnot
    obtain ⟨hkeeps, hclosed⟩ := hnot
    obtain ⟨hdata, -⟩ := h.image hclosed fun m hm => hbefore m (by simp; omega)
    have hbreak : ¬ t.BreaksImage x := fun hb => Bool.false_ne_true (hkeeps.symm.trans (himage.mpr hb))
    have hx : 0x4E00 ≤ x.toNat ∧ x.toNat ≤ 0x8DFF :=
      not_not.mp fun hrange => hbreak ⟨h.mode.trans hs.mode, hclosed, .inl hrange⟩
    refine ⟨fun u hu => ?_, fun hlast u hu => ?_⟩
    · obtain hold | hnew := List.mem_append.mp hu
      · exact hdata u hold
      · exact List.mem_singleton.mp hnew ▸ hx
    · rw [List.getLast?_concat, Option.some.injEq] at hu
      subst hu
      have hicnt : (t.icnt + 1).toNat = t.nlen.toNat := by
        rw [List.length_append, List.length_singleton] at hlast
        rw [h.icnt, h.nlen, ← hlast, BitVec.toNat_add, BitVec.toNat_ofNat]
        simp
        omega
      refine not_not.mp fun hpad => hbreak ⟨h.mode.trans hs.mode, hclosed, .inr ⟨hicnt, ?_⟩⟩
      rwa [h.nlen, h.cap]

/-- The PUSHes of a decode session, whatever the units. -/
theorem State.DecodeOpened.pushes (hs : s.DecodeOpened) (xs : List Elem) (hlen : xs.length < 2 ^ 32) :
    ∃ t, runCommands (xs.map .push) s = .next t ∧ s.DecodeFed xs t := by
  induction xs using List.reverseRecOn with
  | nil => exact ⟨s, rfl, hs.fed_nil⟩
  | append_singleton xs x ih =>
    rw [List.length_append, List.length_singleton] at hlen
    obtain ⟨t, hrun, ht⟩ := ih (by omega)
    have hpush : exec (.push x) t = .next (t.pushElement x) := exec_of_effect ⟨ht.active.trans hs.active, rfl⟩
    refine ⟨t.pushElement x, ?_, ?_⟩
    · rw [List.map_append, runCommands, performAll_append_next hrun]
      exact performAll_cons_next hpush []
    · by_cases hfull : t.oidx = t.cap
      · exact ht.push_full hfull
      · exact ht.push_room hs hlen hfull

/-- FLUSH in a session whose outputs are open leaves every entry it wrote at a free value (R112, R156). -/
theorem State.DecodeFed.flush_free (h : s.DecodeFed xs t) (hany : t.outAny = true) {i : Nat}
    (hi : i < t.emitPending.oidx.toNat) : ∃ k, t.emitPending.obuf.read i = some (Config.anyOutput k) := by
  by_cases hnothing : t.accOff = 0 ∨ t.cap.toNat ≤ t.oidx.toNat
  · rw [State.emitPending_of_nothing hnothing] at hi ⊢
    exact h.free hany i hi
  · obtain ⟨hpending, hroom⟩ := not_or.mp hnothing
    rw [Nat.not_le] at hroom
    rw [State.emitPending_of_pending hpending hroom, State.emit_oidx, State.oidx_succ hroom] at hi
    rw [State.emitPending_of_pending hpending hroom, State.emit_obuf, hany, Bool.or_true, if_pos rfl, Memory.read_write]
    split
    case isTrue => exact ⟨_, rfl⟩
    case isFalse hlast => exact h.free hany i (by omega)

end

/-! ### The session outside the image -/

theorem decodeSession_decodeOpened (s : State) (units : List Elem) (term : Elem) :
    (decodeSession s units term).DecodeOpened :=
  ⟨rfl, rfl, rfl, rfl, rfl, rfl, rfl, rfl, rfl⟩

/-- The terminators whose residue is at most 6 are those of R152's first condition. -/
theorem residueOf_le_iff (term : Elem) : (residueOf term).toNat ≤ 6 ↔ 0x3D00 ≤ term.toNat ∧ term.toNat ≤ 0x3D06 := by
  have hlt := term.isLt
  rw [residueOf, BitVec.toNat_sub]
  simp [termBase]
  omega

section
variable {s t : State} {units : List Elem} {term : Elem} {n : Nat}

/-- A session whose outputs are still determined after all its units is one in the image (R152). -/
theorem State.DecodeFed.image_of_determined (hlen : units.length < 2 ^ 28) (hcount : unitsCount units term = n)
    (hfits : n ≤ s.depth.toNat) (h : (decodeSession s units term).DecodeFed units t) (hout : t.outAny = false) :
    Image units term n := by
  have hheader := h.opened hout
  rw [decodeSession_outAny hlen hcount, Bool.not_eq_false', headerInImage, Bool.and_eq_true, decide_eq_true_eq,
    beq_iff_eq] at hheader
  obtain ⟨hresidue, hunits⟩ := hheader
  have hcap := decodeSession_cap (s := s) hlen hcount hfits
  have hnlen := decodeSession_nlen (s := s) (term := term) hlen
  obtain ⟨hdata, hpad⟩ := h.image hout fun m hm => by
    rw [hcap]
    unfold ceilDiv at hunits
    omega
  refine ⟨(residueOf_le_iff term).mp hresidue, hcount, hunits, hdata, fun u hu => ?_⟩
  have hbits := hpad hnlen.symm u hu
  rwa [hnlen, hcap] at hbits

end

/-- Units in the image break none of R152's conditions, written out over the integers. -/
theorem Image.not_outside {units : List Elem} {term : Elem} {m : Nat} (h : Image units term m) {n : Int} (hm : n = m) :
    ¬ (¬ (0x3D00 ≤ term.toNat ∧ term.toNat ≤ 0x3D06) ∨ n < 0 ∨ Int.fdiv (4 * n + 6) 7 ≠ units.length ∨
      (∃ u ∈ units, ¬ (0x4E00 ≤ u.toNat ∧ u.toNat ≤ 0x8DFF)) ∨
      ∃ u, units.getLast? = some u ∧ (u.toNat - 0x4E00) % 2 ^ (14 * (units.length : Int) - 8 * n).toNat ≠ 0) := by
  rintro (hterm | hneg | hcount | ⟨u, hu, hrange⟩ | ⟨u, hu, hbits⟩)
  · exact hterm h.range
  · omega
  · have hfits := h.fits
    rw [ceilDiv] at hfits
    rw [Int.fdiv_eq_ediv_of_nonneg _ (by decide)] at hcount
    omega
  · exact hrange (h.data u hu)
  · have hpad : (14 * (units.length : Int) - 8 * n).toNat = padBits m units.length := by
      rw [padBits]
      omega
    rw [hpad] at hbits
    exact hbits (h.pad u hu)

/-- Settles O57: a count that does not fit is refused by DSTART, and a session that ends with determined outputs is in the
image. -/
theorem decodeSessionOutsideTheImageIsFree : Obligations.DecodeSessionOutsideTheImageIsFree := by
  intro s units term hidle hlen l r n houtside
  have hresidue : residueOf term = 0 ↔ term = 0x3D00 := sub_eq_zero
  have hn : unitsCount units term = n := by
    rw [unitsCount, decodeCount_eq]
    simp only [hresidue]
    rfl
  refine ⟨fun hcap => ?refused, fun hnonneg hdepth => ?free⟩
  case refused =>
    have hdecode : decodeCount (residueOf term) (BitVec.ofNat 28 units.length).toNat = n := by
      rw [toNat_ofNat_length hlen]
      exact hn
    have hstart : exec (.dstart (BitVec.ofNat 28 units.length)) (effectState (.dterm term) s) =
        .next ((effectState (.dterm term) s).refusedWith 5) :=
      exec_refused (c := .cap) (by
        simp only [checks, effectState, firstCause_cons, hidle, hdecode, hcap, decide_true, Bool.not_true,
          Bool.false_eq_true, if_false, if_true])
    exact (performAll_cons_next (exec_dterm_idle hidle term) _).trans (performAll_cons_next hstart [])
  case free =>
    obtain ⟨m, hm⟩ := Int.eq_ofNat_of_zero_le hnonneg
    have hcount : unitsCount units term = m := hn.trans hm
    have hfits : m ≤ s.depth.toNat := by rwa [hm, Int.ofNat_le] at hdepth
    obtain ⟨t, hrun, ht⟩ := (decodeSession_decodeOpened s units term).pushes units (hlen.trans (by norm_num))
    have hflush : exec .flush t = .next t.emitPending.endSession := exec_of_effect ⟨ht.active, rfl⟩
    have hany : t.outAny = true := by
      by_contra hdetermined
      have himage := ht.image_of_determined hlen hcount hfits (Bool.eq_false_iff.mpr hdetermined)
      exact himage.not_outside hm houtside
    have herr : t.err = s.err ∧ t.ecode = s.ecode ∧ t.termWritten = false := by
      rw [ht.frame]
      exact ⟨rfl, rfl, rfl⟩
    refine ⟨t.emitPending.endSession, ?run, ?cap, ?err, ?ecode, rfl, rfl, ?mode,
      fun i _ => ⟨fun hwrote => ?wrote, fun hstale => ?stale⟩⟩
    case run =>
      rw [decodeCommands, decode_start hlen hcount hfits hidle, feed, runCommands, performAll_append_next hrun]
      exact performAll_cons_next hflush []
    case cap => rw [State.endSession_cap, State.emitPending_cap, ht.cap, decodeSession_cap hlen hcount hfits, hm]
    case err => rw [State.endSession_err, State.emitPending_err, herr.1]
    case ecode => rw [State.endSession_ecode, State.emitPending_ecode, herr.2.1]
    case mode => exact (State.emitPending_mode t).trans ht.mode
    case wrote =>
      obtain ⟨k, hk⟩ := ht.flush_free hany hwrote
      exact ⟨k, State.entry_of_read ((State.sessionWrote_iff _ i).mpr (.inl hwrote)) hk⟩
    case stale =>
      refine State.entry_of_not_wrote (Bool.eq_false_iff.mpr fun hwrote => ?_)
      obtain hlow | ⟨hterm, -⟩ := (State.sessionWrote_iff _ i).mp hwrote
      · omega
      · rw [State.endSession_termWritten, State.emitPending_termWritten, herr.2.2] at hterm
        exact Bool.false_ne_true hterm

end Sys2Proof.Machine
